-- ==== Sys2Proof/Word.lean ====
section
/-! DEFINITION. The words of the register-access block: bytes, register indices, the command word and
the chip-select level (spec/00_scope.md R4, R6, R8). -/

namespace Sys2Proof

/-- A byte of a transport request, an address byte, a mask or a length (DATA_W = ADDR_BYTE_W = LEN_W = 8,
R4 and R6). -/
abbrev Byte := BitVec 8

/-- A register index of the peer, 0 to 63 (REG_W = 6, R4). -/
abbrev RegIndex := BitVec 6

/-- The command word `cmd[16:0]` (format CMD, R50 and R51). -/
abbrev CmdWord := BitVec 17

/-- The level asked of the chip-select line (format PIN, R50 and R55): 0 active, 1 inactive. -/
abbrev Level := BitVec 1

end Sys2Proof
end

