-- ==== Sys2Proof/Syntax.lean ====
section
/-! DEFINITION. The instruction set: the twelve rows of spec/opcode_table.json, eight commands of format
CMD, two wire frames of format FRAME and two levels of format PIN (R50 to R55), with the side operands of
the command port (R51). -/

namespace Sys2Proof

/-- BUS_T (R6): an opaque reference to a bus transport. The block never computes with it, it only copies
it into the events it emits (R11). It is represented by a name (log entry 6). -/
structure BusRef where
  name : Nat
  deriving DecidableEq, Repr

/-- PORT_T (R6): an opaque reference to the chip-select output port (R11; log entry 6). -/
structure PortRef where
  name : Nat
  deriving DecidableEq, Repr

/-- PIN_T (R6): an opaque pin identifier on that port (R11; log entry 6). -/
structure PinRef where
  name : Nat
  deriving DecidableEq, Repr

/-- The side operands the command port carries beside the word (R51): the three bind operands of INIT and
the payload WBUF of WRITE. -/
structure Side where
  bus  : BusRef
  port : PortRef
  pin  : PinRef
  wbuf : List Byte
  deriving DecidableEq, Repr

/-- A command as the caller offers it: the word and its side operands (R51). -/
structure Offer where
  word : CmdWord
  side : Side
  deriving DecidableEq, Repr

/-- An instruction as encoded, in one of the three formats of R50. -/
inductive Encoded where
  | cmd   (offer : Offer)
  | frame (addressByte : Byte)
  | pin   (level : Level)
  deriving DecidableEq, Repr

/-- The instructions. The fields `reg` and `arg` of `init`, `reset`, `antennaOn` and `antennaOff` are the
fields of the command word those commands do not use: they are latched (R56) and have no effect (R51;
log entry 24). -/
inductive Instr where
  /-- `init bus, port, pin` (R113). -/
  | init (reg : RegIndex) (arg : Byte) (bus : BusRef) (port : PortRef) (pin : PinRef)
  /-- `reset`, the soft reset of the peer (R110). -/
  | reset (reg : RegIndex) (arg : Byte)
  /-- `read reg, N` (R92). -/
  | read (reg : RegIndex) (len : Byte)
  /-- `write reg, [b0, b1, ..]` (R91); `len` is the length operand of the word, `payload` is WBUF. -/
  | write (reg : RegIndex) (len : Byte) (payload : List Byte)
  /-- `set_bits reg, mask` (R93). -/
  | setBits (reg : RegIndex) (mask : Byte)
  /-- `clear_bits reg, mask` (R94). -/
  | clearBits (reg : RegIndex) (mask : Byte)
  /-- `antenna_on` (R111). -/
  | antennaOn (reg : RegIndex) (arg : Byte)
  /-- `antenna_off` (R112). -/
  | antennaOff (reg : RegIndex) (arg : Byte)
  /-- The wire frame of a write transaction, address byte `0rrrrrr0` then a transmit (R53, R70, R91). -/
  | writeFrame (reg : RegIndex)
  /-- The wire frame of a read transaction, address byte `1rrrrrr0` then a receive (R53, R71, R92). -/
  | readFrame (reg : RegIndex)
  /-- The micro-operation `select()`, pin level 0 (R80). -/
  | select
  /-- The micro-operation `deselect()`, pin level 1 (R81). -/
  | deselect
  deriving DecidableEq, Repr

end Sys2Proof
end

