-- ==== Sys2Proof/WellFormed.lean ====
section
/-! DEFINITION. Well-formed instructions: the operand conditions of command acceptance that concern the
command alone (R56 (b) and (c)). Every other instruction is well formed at every operand value: a register
index above 63 cannot be expressed (R33), no op code is unassigned (R52). -/

namespace Sys2Proof

/-- READ and WRITE need a length of 1 to 255 (R56 (b)). -/
def lengthOk (len : Byte) : Bool := len != 0#8

/-- WRITE needs a WBUF of exactly `len` bytes (R56 (c)). -/
def payloadOk (len : Byte) (payload : List Byte) : Bool := payload.length == len.toNat

/-- The command is one the block gives a meaning to, BOUND apart (R56 (b), (c)). -/
def wellFormed (i : Instr) : Bool :=
  match i with
  | .init _ _ _ _ _ => true
  | .reset _ _ => true
  | .read _ len => lengthOk len
  | .write _ len payload => lengthOk len && payloadOk len payload
  | .setBits _ _ => true
  | .clearBits _ _ => true
  | .antennaOn _ _ => true
  | .antennaOff _ _ => true
  | .writeFrame _ => true
  | .readFrame _ => true
  | .select => true
  | .deselect => true

end Sys2Proof
end

