-- ==== Sys2Proof/Decode.lean ====
section
/-! DEFINITION. Decoding and encoding of the three formats: the command word (R51, R52), the address byte
of a wire frame (R53, R70, R71, R73) and the pin level (R55). Decoding is total: a word is an instruction
or is rejected by name. -/

namespace Sys2Proof

/-- Why bits are no instruction. -/
inductive DecodeError where
  /-- An address byte with bit 0 set: "a peer model that receives 1 there (never from this block) has no
  meaning" (U5, R59 (a)). -/
  | padBitSet
  /-- No format of R50 has this width. -/
  | noSuchWidth
  /-- A bit is set above the format's width (R50: CMD is 17 bits, PIN is 1 bit). -/
  | bitsAboveFormat
  deriving DecidableEq, Repr

/-! ## Format CMD -/

/-- `cmd[16:14]`, the operation (R51). -/
def cmdOp (w : CmdWord) : BitVec 3 := w.extractLsb' 14 3

/-- `cmd[13:8]`, the register index (R51). -/
def cmdReg (w : CmdWord) : RegIndex := w.extractLsb' 8 6

/-- `cmd[7:0]`, the mask or the length (R51). -/
def cmdArg (w : CmdWord) : Byte := w.extractLsb' 0 8

/-- The command word with these fields, `op` in bits 16:14, `reg` in 13:8, `arg` in 7:0 (R51). -/
def cmdWord (op : BitVec 3) (reg : RegIndex) (arg : Byte) : CmdWord := op ++ reg ++ arg

/-- A command word with its side operands as an instruction: all eight values of `op` are assigned
(R52), so this never rejects. A length 0 or a wrong payload length is refused at acceptance, not here
(R59 (c), (d)). Side operands a command does not use are dropped (R51). -/
def decodeCmd (w : CmdWord) (side : Side) : Instr :=
  let reg := cmdReg w
  let arg := cmdArg w
  match (cmdOp w).toNat with
  | 0 => .init reg arg side.bus side.port side.pin
  | 1 => .reset reg arg
  | 2 => .read reg arg
  | 3 => .write reg arg side.wbuf
  | 4 => .setBits reg arg
  | 5 => .clearBits reg arg
  | 6 => .antennaOn reg arg
  | _ => .antennaOff reg arg

/-! ## Format FRAME -/

/-- `a[7]`, the read bit: 1 for a read transaction, 0 for a write transaction (R53, R73). -/
def frameIsRead (a : Byte) : Bool := a.getLsbD 7

/-- `a[6:1]`, the register index (R53, R73). -/
def frameIndex (a : Byte) : RegIndex := a.extractLsb' 1 6

/-- `a[0]`, the pad bit, which is always 0 (R53, R59 (a)). -/
def framePad (a : Byte) : Bool := a.getLsbD 0

/-- An address byte as a wire frame (R53, R73). -/
def decodeFrame (a : Byte) : Except DecodeError Instr :=
  if framePad a then .error .padBitSet
  else if frameIsRead a then .ok (.readFrame (frameIndex a))
  else .ok (.writeFrame (frameIndex a))

/-! ## Format PIN -/

/-- A pin level as a micro-operation: 0 is `select()`, 1 is `deselect()` (R55). -/
def decodePin (l : Level) : Instr := if l = 0#1 then .select else .deselect

/-! ## The decoder and the encoder -/

/-- The decoder over the three formats. -/
def decode (e : Encoded) : Except DecodeError Instr :=
  match e with
  | .cmd o => .ok (decodeCmd o.word o.side)
  | .frame a => decodeFrame a
  | .pin l => .ok (decodePin l)

/-- The side operands of a command that has none: the names 0 and no payload. They are ignored (R51). -/
def noSide : Side := ⟨⟨0⟩, ⟨0⟩, ⟨0⟩, []⟩

/-- The encoder, written from the field tables of R51 to R53 and R55. A frame's address byte is the
concatenation `{readBit, reg[5:0], 0b0}` of R58 (a). -/
def encode (i : Instr) : Encoded :=
  match i with
  | .init reg arg bus port pin => .cmd ⟨cmdWord 0b000#3 reg arg, ⟨bus, port, pin, []⟩⟩
  | .reset reg arg => .cmd ⟨cmdWord 0b001#3 reg arg, noSide⟩
  | .read reg len => .cmd ⟨cmdWord 0b010#3 reg len, noSide⟩
  | .write reg len payload =>
    .cmd ⟨cmdWord 0b011#3 reg len, ⟨noSide.bus, noSide.port, noSide.pin, payload⟩⟩
  | .setBits reg mask => .cmd ⟨cmdWord 0b100#3 reg mask, noSide⟩
  | .clearBits reg mask => .cmd ⟨cmdWord 0b101#3 reg mask, noSide⟩
  | .antennaOn reg arg => .cmd ⟨cmdWord 0b110#3 reg arg, noSide⟩
  | .antennaOff reg arg => .cmd ⟨cmdWord 0b111#3 reg arg, noSide⟩
  | .writeFrame reg => .frame (0#1 ++ reg ++ 0#1)
  | .readFrame reg => .frame (1#1 ++ reg ++ 0#1)
  | .select => .pin 0#1
  | .deselect => .pin 1#1

/-! ## The opcode table's numbering -/

/-- The bits `w` of an `nbits`-bit table word, laid out in the format of that width: 17 bits (24 in whole
bytes) is CMD, 8 bits is FRAME, 1 bit is PIN. A PIN word in whole bytes has 8 bits too: of the 8-bit words
0 and 1 are read as PIN and the others as FRAME, so that the word 0 is SELECT and not the frame of register
0 (log entry 10). A WRITE word brings a payload of zeros of its length. -/
def tableEncoded (nbits w : Nat) : Except DecodeError Encoded :=
  if nbits = 1 ∨ (nbits = 8 ∧ w ≤ 1) then
    if w ≤ 1 then .ok (.pin (BitVec.ofNat 1 w)) else .error .bitsAboveFormat
  else if nbits = 8 then
    if w < 256 then .ok (.frame (BitVec.ofNat 8 w)) else .error .bitsAboveFormat
  else if nbits = 17 ∨ nbits = 24 then
    if w < 131072 then
      let word := BitVec.ofNat 17 w
      let zeros := if (cmdOp word).toNat = 3 then List.replicate (cmdArg word).toNat 0#8 else []
      .ok (.cmd ⟨word, ⟨noSide.bus, noSide.port, noSide.pin, zeros⟩⟩)
    else .error .bitsAboveFormat
  else .error .noSuchWidth

/-- The instruction the decoder reads from a word numbered as spec/opcode_table.json numbers it. -/
def decodeTableWord (nbits w : Nat) : Option Instr :=
  match tableEncoded nbits w with
  | .error _ => none
  | .ok e =>
    match decode e with
    | .error _ => none
    | .ok i => some i

end Sys2Proof
end

