-- ==== Sys2Proof/Config.lean ====
section
/-! DEFINITION. What is fixed for one block: the parameters the source names without a value (R5), the
timeout of every transport request (R4), and the free bytes the rules leave undetermined (`any8`, R9).

Every `opaque` below has no body: nothing in Lean evaluates it, so a theorem that mentions one holds for
every value of its range (log entry 17 for the parameters, log entry 5 for the free bytes). -/

namespace Sys2Proof

/-- The timeout argument of a transport request. The source fixes one value, "a fixed 'wait
indefinitely' sentinel" (R4 row TIMEOUT, R140). -/
inductive Timeout where
  | waitForever
  deriving DecidableEq, Repr

namespace Config

/-- TIMEOUT = WAIT_FOREVER (R4), passed unchanged to every transport request. -/
def timeout : Timeout := .waitForever

/-- REG_COMMAND: "the chip's command register" (R5, open). -/
opaque regCommand : RegIndex
/-- REG_TMODE: the timer-mode register (R5, open). -/
opaque regTMode : RegIndex
/-- REG_TPRESCALER: the timer-prescaler register (R5, open). -/
opaque regTPrescaler : RegIndex
/-- REG_TRELOAD_L: the timer-reload register, low byte (R5, open). -/
opaque regTReloadL : RegIndex
/-- REG_TRELOAD_H: the timer-reload register, high byte (R5, open). -/
opaque regTReloadH : RegIndex
/-- REG_TXASK: the transmit-ASK register (R5, open). -/
opaque regTxAsk : RegIndex
/-- REG_MODE: the mode register (R5, open). -/
opaque regMode : RegIndex
/-- REG_IEN1: the interrupt-enable register written first (R5, open; decision D13). -/
opaque regIEn1 : RegIndex
/-- REG_IEN2: the interrupt-enable register written second (R5, open; decision D13). -/
opaque regIEn2 : RegIndex
/-- REG_TXCONTROL: the transmit-control register (R5, open). -/
opaque regTxControl : RegIndex

/-- VAL_RESET_CMD: "a fixed reset-command value" (R5, open). -/
opaque valResetCmd : Byte
/-- VAL_TMODE: the constant `init` writes to REG_TMODE (R5, open). -/
opaque valTMode : Byte
/-- VAL_TPRESCALER (R5, open). -/
opaque valTPrescaler : Byte
/-- VAL_TRELOAD_L (R5, open). -/
opaque valTReloadL : Byte
/-- VAL_TRELOAD_H (R5, open). -/
opaque valTReloadH : Byte
/-- VAL_TXASK: "force 100% amplitude-shift-keying modulation" (R5, open). -/
opaque valTxAsk : Byte
/-- VAL_MODE: "CRC preset value" (R5, open). -/
opaque valMode : Byte

/-- The byte `any8` of R9: "a byte the rules do not determine; the model draws it freely". Applied to
the counter `State.freeIdx`, so that each draw is its own value (log entry 5). -/
opaque freeByte : Nat → Byte

end Config

end Sys2Proof
end

