-- ==== Sys2Proof/Machine/State.lean ====
section
/-! DEFINITION. The state: the latches of the block (R10), and beside them, as plain data, the outside
agents of R7 as the block meets them: the caller's offers and buffers, the transport's replies, the
reference peer (R38), the hardware-reset input (R26), and the record of the events emitted (R7). -/

namespace Sys2Proof.Machine

/-- The operation latched in OP, one of the eight op codes (R15, R52). -/
inductive Op where
  | init | reset | read | write | setBits | clearBits | antennaOn | antennaOff
  deriving DecidableEq, Repr

/-- PHASE: the position inside one transaction (R14). -/
inductive Phase where
  | idle | tSel | tAddr | tData | tDesel | tNext
  deriving DecidableEq, Repr

/-- RES: the result vocabulary (R54). Code 3 is unassigned and has no name. -/
inductive Result where
  | ok
  | transferError
  /-- Reserved: no rule produces it (R132). -/
  | timeout
  deriving DecidableEq, Repr

/-- The transport's answer to a request (R7): `ok`, with the bytes received for a receive (the list is
empty for a transmit), or `fail`. -/
inductive Answer where
  | ok (bytes : List Byte)
  | fail
  deriving DecidableEq, Repr

/-- Where the transport's answer to one request comes from: a free choice of the transport (R130), or the
reference peer of R38. -/
inductive Reply where
  | given (a : Answer)
  | fromPeer
  deriving DecidableEq, Repr

/-- A transport request: `TX(bus, bytes, TIMEOUT)` or `RX(bus, n, TIMEOUT)` less the constant arguments
(R7). -/
inductive Request where
  | tx (bytes : List Byte)
  | rx (n : Nat)
  deriving DecidableEq, Repr

/-- An external event with all its arguments (R7). `answer` is `none` while the request is unanswered, and
for ever where hardware reset cut it short (R151). -/
inductive Event where
  | pin (port : PortRef) (pin : PinRef) (level : Level)
  | tx (bus : BusRef) (bytes : List Byte) (timeout : Timeout) (answer : Option Answer)
  | rx (bus : BusRef) (n : Nat) (timeout : Timeout) (answer : Option Answer)
  deriving DecidableEq, Repr

/-- The reference peer's memory: `PEER[0..63]` as the list of its cells that differ from 0x00, addresses
strictly rising (R30, R38). -/
abbrev Memory := List Host.Cell

/-- F, the reference peer's frame state (R38). -/
inductive Frame where
  | none
  | await
  | wr (i : RegIndex)
  | rd (i : RegIndex)
  deriving DecidableEq, Repr

/-- The reference peer of R38: an environment model, not part of the block. -/
structure Peer where
  /-- `PEER[0..63]`. -/
  mem   : Memory
  /-- F. -/
  frame : Frame
  /-- RO: the registers that ignore writes, with their values. -/
  ro    : List (RegIndex × Byte)
  deriving DecidableEq, Repr

/-- What the block presents to the caller at completion: the operation, its result and, for READ, the
bytes of RBUF (R57). -/
structure Completion where
  op   : Op
  res  : Result
  rbuf : List Byte
  deriving DecidableEq, Repr

/-- The whole state. -/
structure State where
  /-- H_BUS: "reference to the bus transport" (R11). -/
  hBus : BusRef
  /-- H_PORT: "reference to the chip-select output port" (R11). -/
  hPort : PortRef
  /-- H_PIN: "the pin identifier on that port" (R11). -/
  hPin : PinRef
  /-- BOUND: `init` has set the handle since hardware reset (R12). -/
  bound : Bool
  /-- CS: the level last driven on the chip-select line (R13). -/
  cs : Level
  /-- PHASE (R14). -/
  phase : Phase
  /-- OP (R15). -/
  op : Op
  /-- REG (R15). -/
  reg : RegIndex
  /-- ARG (R15). -/
  arg : Byte
  /-- SEQ: the index of the transaction slot in progress (R16). -/
  seq : BitVec 4
  /-- ADDR: the address byte of the transaction in progress (R17). -/
  addr : Byte
  /-- CUR: the byte read by the read half of a read-modify-write (R18). -/
  cur : Byte
  /-- RES (R19). -/
  res : Result
  /-- WBUF: the caller's payload buffer, lent for a WRITE (R20). -/
  wbuf : List Byte
  /-- RBUF: the caller's destination buffer, lent for a READ (R20). -/
  rbuf : List Byte
  /-- The commands the caller offers, one at a time, the first now (R56, R164). -/
  cmds : List Offer
  /-- What was presented to the caller at each completion, oldest first (R57). -/
  done : List Completion
  /-- The transport's replies to the requests from now on, in their order; at the end of the list the
  transport never answers (R130, R156). -/
  replies : List Reply
  /-- The reference peer (R38). -/
  peer : Peer
  /-- The input `rst`, one entry for each step from now on; it is not asserted after the end (R26). -/
  rst : List Bool
  /-- The events emitted before the last hardware reset, oldest first (R7). -/
  before : List Event
  /-- The events emitted since the last hardware reset and answered where they are requests, oldest first
  (R7). -/
  trace : List Event
  /-- The model's own: how many free bytes have been drawn (`any8`, R9). -/
  freeIdx : Nat
  deriving DecidableEq, Repr

/-- The stops of the machine that are faults. -/
inductive Fault where
  /-- Raised by the controller and by a payload transfer when SEQ indexes no slot of the operation
  (R16: it never does). Safe, and no run reaches it (log entry 16). -/
  | slotOutOfRange
  deriving DecidableEq, Repr

/-- The stops of the machine that are refusals. -/
inductive Refusal where
  /-- Raised by the dispatcher for an instruction that has no meaning yet; none is left. -/
  | notModelled (mnemonic : String)
  /-- Raised at acceptance of every command but INIT while BOUND = 0: refused, no meaning (R56 (a), U1).
  Safe. -/
  | unbound
  /-- Raised at acceptance of READ or WRITE with length 0: refused, no meaning (R56 (b), U8). Safe. -/
  | zeroLength
  /-- Raised at acceptance of WRITE whose WBUF does not have exactly `arg` bytes: refused, no meaning
  (R56 (c), U8). Safe. -/
  | payloadLength
  /-- Raised by the controller when ADDR has bit 0 set, which no transaction produces (R59 (a), U5). Safe,
  and no run reaches it. -/
  | padBitSet
  /-- Raised by a wire frame outside phases T_ADDR and T_DATA, where the controller runs none (R84 (b)).
  Safe, and no run reaches it (log entry 15). -/
  | frameOutsideTransaction
  /-- Raised when the reference peer is asked something R38 gives no meaning, such as a payload of more
  than one byte ("any other event: no meaning", U11). Safe. -/
  | peerNoMeaning
  deriving DecidableEq, Repr

/-- The reference peer before anything reached it: every register 0x00, no frame, nothing read-only
(R38; the values 0x00 are those of spec/95_test_vectors.md section 4; log entry 12). -/
def Peer.reset : Peer := { mem := [], frame := .none, ro := [] }

/-- The machine right after hardware reset: BOUND = 0, CS = 1, PHASE = IDLE, SEQ = 0 (R27, R150). The
latches R27 leaves unspecified hold the values log entry 7 names. Nothing is offered, answered or
emitted. -/
def State.reset : State where
  hBus := ⟨0⟩
  hPort := ⟨0⟩
  hPin := ⟨0⟩
  bound := false
  cs := 1#1
  phase := .idle
  op := .init
  reg := 0#6
  arg := 0#8
  seq := 0#4
  addr := 0#8
  cur := 0#8
  res := .ok
  wbuf := []
  rbuf := []
  cmds := []
  done := []
  replies := []
  peer := Peer.reset
  rst := []
  before := []
  trace := []
  freeIdx := 0

end Sys2Proof.Machine
end

