-- ==== Sys2Proof/Machine/Operands.lean ====
section
/-! DEFINITION. Operands: the fixed constants of R4, the register address encoder (R70, R71), the bit
arithmetic of the read-modify-write operations (R74), the bytes of a receive (R9, R92), the reference
peer's byte memory (R30, R38), and the slot lists that drive the controller (R96, R110 to R115). -/

namespace Sys2Proof.Machine

/-! ## The constants the source fixes (R4) -/

/-- CS_ACTIVE: the level `select()` drives. -/
def csActive : Level := 0#1

/-- CS_INACTIVE: the level `deselect()` drives. -/
def csInactive : Level := 1#1

/-- ANT_MASK: the 2-bit antenna field of the transmit-control register (R22). -/
def antMask : Byte := 0x03#8

/-- VAL_IEN: all-ones, written to both interrupt-enable registers. -/
def valIEn : Byte := 0xFF#8

/-- REG_VERSION: the version register. -/
def regVersion : RegIndex := 0x37#6

/-! ## Codes -/

/-- The op code of an operation (R52). -/
def Op.code (o : Op) : BitVec 3 :=
  match o with
  | .init => 0b000#3
  | .reset => 0b001#3
  | .read => 0b010#3
  | .write => 0b011#3
  | .setBits => 0b100#3
  | .clearBits => 0b101#3
  | .antennaOn => 0b110#3
  | .antennaOff => 0b111#3

/-- The result code of a result (R54). -/
def Result.code (r : Result) : BitVec 2 :=
  match r with
  | .ok => 0#2
  | .transferError => 1#2
  | .timeout => 2#2

/-! ## The register address encoder -/

/-- `enc_w(r) = (r << 1) & 0x7E`, the write address byte (R70). -/
def encW (r : RegIndex) : Byte := (r.setWidth 8 <<< 1) &&& 0x7E#8

/-- `enc_r(r) = ((r << 1) & 0x7E) | 0x80`, the read address byte (R71). -/
def encR (r : RegIndex) : Byte := ((r.setWidth 8 <<< 1) &&& 0x7E#8) ||| 0x80#8

/-! ## The bit operations -/

/-- `CUR | mask`, the byte `set_bits` writes back (R93). -/
def setMask (c m : Byte) : Byte := c ||| m

/-- `CUR & ~mask`, the byte `clear_bits` writes back, `~` the 8-bit complement (R94, R58 (c)). -/
def clearMask (c m : Byte) : Byte := c &&& ~~~m

/-! ## The bytes of a receive -/

/-- `k` free bytes, drawn from number `start` on (`any8`, R9). -/
def freeBytes (start : Nat) : Nat → List Byte
  | 0 => []
  | k + 1 => Config.freeByte start :: freeBytes (start + 1) k

/-- How many bytes a receive of `n` bytes lacks when the transport lists only `bytes`. -/
def missingBytes (n : Nat) (bytes : List Byte) : Nat := n - bytes.length

/-- The `n` bytes a receive answered `ok` delivers, in the order of the request (R7, R32): the listed
bytes, of which a receive of `n` bytes takes `n`; a byte the list lacks is free (log entry 4). -/
def fitBytes (n : Nat) (bytes : List Byte) (start : Nat) : List Byte :=
  bytes.take n ++ freeBytes start (missingBytes n bytes)

/-! ## The reference peer's memory -/

/-- What a register the list does not name reads as: 0x00 (log entry 12). -/
def Memory.unlisted : Byte := 0x00#8

/-- `PEER[a]`. -/
def Memory.read (m : Memory) (a : Nat) : Byte :=
  match m with
  | [] => Memory.unlisted
  | (k, v) :: rest => if k = a then v else Memory.read rest a

/-- The list with the cell `(a, b)` in front, or without it where `b` is what an unlisted register reads
as. -/
def Memory.cons (a : Nat) (b : Byte) (m : Memory) : Memory :=
  if b = Memory.unlisted then m else (a, b) :: m

/-- `PEER[a] <- b`, keeping the canonical form. -/
def Memory.write (m : Memory) (a : Nat) (b : Byte) : Memory :=
  match m with
  | [] => Memory.cons a b []
  | (k, v) :: rest =>
    if k < a then (k, v) :: Memory.write rest a b
    else if k = a then Memory.cons a b rest
    else Memory.cons a b ((k, v) :: rest)

/-- The canonical form from address `lo` on: addresses strictly rising and below 64 (R30), no cell equal
to what an unlisted register reads as. -/
def Memory.wfFrom (lo : Nat) (m : Memory) : Bool :=
  match m with
  | [] => true
  | (k, v) :: rest =>
    decide (lo ≤ k) && decide (k < 64) && decide (v ≠ Memory.unlisted) && Memory.wfFrom (k + 1) rest

/-- The canonical form of the reference peer's memory. -/
def Memory.wf (m : Memory) : Bool := Memory.wfFrom 0 m

/-! ## Transaction slots -/

/-- The kind of a transaction: `W` or `R` (R96). -/
inductive Kind where
  | w | r
  deriving DecidableEq, Repr

/-- Where the bytes of a read transaction go (R96): RBUF, CUR, or nowhere (R118). -/
inductive Dest where
  | rbuf | cur | discard
  deriving DecidableEq, Repr

/-- One transaction slot: `slot(OP, SEQ)` of R96. -/
structure Slot where
  kind : Kind
  reg  : RegIndex
  /-- The number of payload bytes. -/
  len  : Nat
  /-- The bytes a write transaction transmits; none for a read. -/
  data : List Byte
  /-- Where a read transaction's bytes go; nowhere for a write. -/
  dest : Dest
  deriving DecidableEq, Repr

/-- A write slot of these bytes. -/
def writeSlot (r : RegIndex) (v : List Byte) : Slot :=
  { kind := .w, reg := r, len := v.length, data := v, dest := .discard }

/-- A read slot of `n` bytes. -/
def readSlot (r : RegIndex) (n : Nat) (d : Dest) : Slot :=
  { kind := .r, reg := r, len := n, data := [], dest := d }

/-- The address byte of a slot: `enc_w` of its register for a write, `enc_r` for a read (R17). -/
def Slot.addressByte (sl : Slot) : Byte :=
  match sl.kind with
  | .w => encW sl.reg
  | .r => encR sl.reg

/-- The two slots of a read-modify-write of register `r` that writes back `b` (R95). -/
def rmwSlot (r : RegIndex) (b : Byte) (seq : Nat) : Option Slot :=
  match seq with
  | 0 => some (readSlot r 1 .cur)
  | 1 => some (writeSlot r [b])
  | _ => none

/-- The single slot of `read`, `write` and `reset` (R16). -/
def singleSlot (sl : Slot) (seq : Nat) : Option Slot :=
  match seq with
  | 0 => some sl
  | _ => none

/-- The slot table of `init` (R115). -/
def initSlot (cur : Byte) (seq : Nat) : Option Slot :=
  match seq with
  | 0 => some (writeSlot Config.regCommand [Config.valResetCmd])
  | 1 => some (writeSlot Config.regTMode [Config.valTMode])
  | 2 => some (writeSlot Config.regTPrescaler [Config.valTPrescaler])
  | 3 => some (writeSlot Config.regTReloadL [Config.valTReloadL])
  | 4 => some (writeSlot Config.regTReloadH [Config.valTReloadH])
  | 5 => some (writeSlot Config.regTxAsk [Config.valTxAsk])
  | 6 => some (writeSlot Config.regMode [Config.valMode])
  | 7 => some (writeSlot Config.regIEn1 [valIEn])
  | 8 => some (writeSlot Config.regIEn2 [valIEn])
  | 9 => some (readSlot Config.regTxControl 1 .cur)
  | 10 => some (writeSlot Config.regTxControl [setMask cur antMask])
  | 11 => some (readSlot regVersion 1 .discard)
  | _ => none

/-- `slot(OP, SEQ)`, the transaction to perform (R96, R110 to R112, R115). -/
def State.slot (s : State) : Option Slot :=
  match s.op with
  | .init => initSlot s.cur s.seq.toNat
  | .reset => singleSlot (writeSlot Config.regCommand [Config.valResetCmd]) s.seq.toNat
  | .read => singleSlot (readSlot s.reg s.arg.toNat .rbuf) s.seq.toNat
  | .write => singleSlot (writeSlot s.reg s.wbuf) s.seq.toNat
  | .setBits => rmwSlot s.reg (setMask s.cur s.arg) s.seq.toNat
  | .clearBits => rmwSlot s.reg (clearMask s.cur s.arg) s.seq.toNat
  | .antennaOn => rmwSlot Config.regTxControl (setMask s.cur antMask) s.seq.toNat
  | .antennaOff => rmwSlot Config.regTxControl (clearMask s.cur antMask) s.seq.toNat

/-- How many slots an operation has (R16). -/
def slotCount (o : Op) : Nat :=
  match o with
  | .init => 12
  | .reset => 1
  | .read => 1
  | .write => 1
  | .setBits => 2
  | .clearBits => 2
  | .antennaOn => 2
  | .antennaOff => 2

/-- The slot is the read slot of a read-modify-write: slot 0 of SET_BITS, CLEAR_BITS, ANTENNA_ON and
ANTENNA_OFF, slot 9 of INIT (R96, row T_NEXT). -/
def isRmwRead (o : Op) (seq : Nat) : Bool :=
  match o with
  | .init => seq == 9
  | .reset => false
  | .read => false
  | .write => false
  | .setBits => seq == 0
  | .clearBits => seq == 0
  | .antennaOn => seq == 0
  | .antennaOff => seq == 0

end Sys2Proof.Machine
end

