-- ==== Sys2Proof/Machine/Flags.lean ====
section
/-! DEFINITION. RES, the block's only status flag (R19): what clears it, what sets it, and what reads it. -/

namespace Sys2Proof.Machine

/-- `RES <- Ok`: at command acceptance and at the start of every slot (R19, R96). -/
def State.clearRes (s : State) : State := { s with res := .ok }

/-- The result an operation presents at completion: the outcome of its last slot, and for INIT always Ok
(R57, R117). -/
def finalRes (o : Op) (r : Result) : Result :=
  match o with
  | .init => .ok
  | .reset => r
  | .read => r
  | .write => r
  | .setBits => r
  | .clearBits => r
  | .antennaOn => r
  | .antennaOff => r

/-- By how much SEQ advances at T_NEXT: 2 after a failed read slot of a read-modify-write, whose write
slot is skipped, else 1 (R16, R95, R96). -/
def seqStep (o : Op) (seq : Nat) (r : Result) : Nat :=
  if isRmwRead o seq && decide (r = .transferError) then 2 else 1

end Sys2Proof.Machine
end

