-- ==== Sys2Proof/Machine/Ops.lean ====
section
/-! DEFINITION. The shared operations: the pin and transport events (R7, R9), the reference peer (R38),
raising TransferError (R131), the two sub-transfers of a transaction (R91, R92), command acceptance and
completion (R56, R57), the slot bookkeeping of the step machine (R96), and hardware reset (R26, R27,
R151). -/

namespace Sys2Proof.Machine

/-- The outcome with its next state changed by `f`. -/
def mapNext (f : State → State) (o : Host.Outcome State Fault Refusal) :
    Host.Outcome State Fault Refusal :=
  match o with
  | .next s => .next (f s)
  | .fault r => .fault r
  | .refused r => .refused r

/-- `PHASE <- p`. -/
def State.setPhase (p : Phase) (s : State) : State := { s with phase := p }

/-! ## Events -/

/-- The request as an event on transport `bus`, with its answer where there is one (R7). -/
def Request.event (bus : BusRef) (a : Option Answer) (q : Request) : Event :=
  match q with
  | .tx bytes => .tx bus bytes Config.timeout a
  | .rx n => .rx bus n Config.timeout a

/-- The transport request in flight (R24 (b)): the address byte in T_ADDR, the payload transfer of the
slot in T_DATA (R14, R96); none in the other phases. -/
def State.inFlight (s : State) : Option Request :=
  match s.phase with
  | .tAddr => some (.tx [s.addr])
  | .tData =>
    match s.slot with
    | some sl =>
      match sl.kind with
      | .w => some (.tx sl.data)
      | .r => some (.rx sl.len)
    | none => none
  | .idle => none
  | .tSel => none
  | .tDesel => none
  | .tNext => none

/-- The request in flight as an event without an answer; a trace can end with one (R96). -/
def State.unanswered (s : State) : List Event :=
  match s.inFlight with
  | some q => [q.event s.hBus none]
  | none => []

/-- Every event emitted since the last hardware reset, the request in flight last: a request is emitted
when its phase is entered (R96). -/
def State.events (s : State) : List Event := s.trace ++ s.unanswered

/-! ## The reference peer -/

/-- The peer's reaction to a pin event: `CS(0)` awaits an address byte, `CS(1)` ends the frame (R38). -/
def Peer.onPin (p : Peer) (l : Level) : Peer :=
  { p with frame := if l = csActive then .await else .none }

/-- The frame an address byte opens (R38, R73). -/
def frameOf (a : Byte) : Frame :=
  if frameIsRead a then .rd (frameIndex a) else .wr (frameIndex a)

/-- `i` is an index of RO (R38). -/
def Peer.readOnly (p : Peer) (i : RegIndex) : Bool := p.ro.any (fun e => e.1 == i)

/-- A one-byte store of the peer: nothing changes at an index of RO (R38). -/
def Peer.store (p : Peer) (i : RegIndex) (v : Byte) : Peer :=
  if p.readOnly i then p else { p with mem := p.mem.write i.toNat v }

/-- The peer's reaction and answer to a request; `none` is "no meaning" (R38; an address byte with bit 0
set has none either, U5). -/
def Peer.onRequest (p : Peer) (q : Request) : Option (Peer × Answer) :=
  match q, p.frame with
  | .tx [a], .await => if framePad a then none else some ({ p with frame := frameOf a }, .ok [])
  | .tx [v], .wr i => some (p.store i v, .ok [])
  | .rx 1, .rd i => some (p, .ok [p.mem.read i.toNat])
  | _, _ => none

/-! ## PinSet and the transport -/

/-- `PinSet(level)`: emit `PIN(H_PORT, H_PIN, level)`, then `CS <- level`; never fails (R9, R80, R81). The
reference peer sees the line (R38). -/
def State.pinSet (l : Level) (s : State) : State :=
  { s with
    cs := l
    trace := s.trace ++ [.pin s.hPort s.hPin l]
    peer := s.peer.onPin l }

/-- A given answer as an answer to this request: a transmit returns no bytes, a receive of `n` bytes
returns `n` (R7). -/
def fitAnswer (q : Request) (a : Answer) (start : Nat) : Answer :=
  match a with
  | .fail => .fail
  | .ok bytes =>
    match q with
    | .tx _ => .ok []
    | .rx n => .ok (fitBytes n bytes start)

/-- How many free bytes `fitAnswer` draws. -/
def fitDraws (q : Request) (a : Answer) : Nat :=
  match a with
  | .fail => 0
  | .ok bytes =>
    match q with
    | .tx _ => 0
    | .rx n => missingBytes n bytes

/-- What comes of waiting for the transport's answer. -/
inductive Response where
  /-- No answer: the block goes on waiting (R156). -/
  | waits
  /-- The reference peer gives the request no meaning (R38). -/
  | noMeaning
  /-- The answer, and the state with the answered request in the trace. -/
  | answered (a : Answer) (s : State)
  deriving DecidableEq, Repr

/-- The state in which the transport has answered request `q` with `a`, using up the first reply. -/
def State.answerWith (q : Request) (a : Answer) (s : State) : State :=
  { s with replies := s.replies.tail, trace := s.trace ++ [q.event s.hBus (some a)] }

/-- `Tx` and `Rx` of R9: the transport's answer to the request `q` (R130). A request the transport answers
by itself leaves the reference peer alone (R38). -/
def State.respond (q : Request) (s : State) : Response :=
  match s.replies with
  | [] => .waits
  | .given a :: _ =>
    .answered (fitAnswer q a s.freeIdx)
      { s.answerWith q (fitAnswer q a s.freeIdx) with freeIdx := s.freeIdx + fitDraws q a }
  | .fromPeer :: _ =>
    match s.peer.onRequest q with
    | none => .noMeaning
    | some (p, a) => .answered a { s.answerWith q a with peer := p }

/-! ## Raising TransferError -/

/-- `raise TransferError`: sets RES and does nothing else. No handler is entered, nothing is saved and no
mode changes; control goes on to the obligatory `deselect()` (R9, R131, R136). There is no return from it
either (R137). -/
def State.raiseTransferError (s : State) : State := { s with res := .transferError }

/-! ## The two sub-transfers of a transaction -/

/-- T_ADDR: transmit the address byte `a`; on failure the payload transfer is skipped (R91, R92, R96). -/
def sendAddress (a : Byte) (s : State) : Host.Outcome State Fault Refusal :=
  match s.respond (.tx [a]) with
  | .waits => .next s
  | .noMeaning => .refused .peerNoMeaning
  | .answered .fail t => .next (t.raiseTransferError.setPhase .tDesel)
  | .answered (.ok _) t => .next (t.setPhase .tData)

/-- T_DATA of a write transaction: transmit the slot's bytes in one request (R91, R96). -/
def sendPayload (sl : Slot) (s : State) : Host.Outcome State Fault Refusal :=
  match s.respond (.tx sl.data) with
  | .waits => .next s
  | .noMeaning => .refused .peerNoMeaning
  | .answered .fail t => .next (t.raiseTransferError.setPhase .tDesel)
  | .answered (.ok _) t => .next (t.setPhase .tDesel)

/-- RBUF becomes `n` undetermined bytes (R92, R160; log entry 5). -/
def State.clobberRbuf (n : Nat) (s : State) : State :=
  { s with rbuf := freeBytes s.freeIdx n, freeIdx := s.freeIdx + n }

/-- Deliver received bytes to a slot's destination (R96, R118). -/
def State.deliver (d : Dest) (bytes : List Byte) (s : State) : State :=
  match d with
  | .rbuf => { s with rbuf := bytes }
  | .cur =>
    match bytes with
    | c :: _ => { s with cur := c }
    | [] => s
  | .discard => s

/-- After a failed receive the destination buffer of `read` is undetermined (R92); CUR is not written
(R18). -/
def State.spoil (sl : Slot) (s : State) : State :=
  match sl.dest with
  | .rbuf => s.clobberRbuf sl.len
  | .cur => s
  | .discard => s

/-- T_DATA of a read transaction: receive the slot's bytes in one request (R92, R96). -/
def receivePayload (sl : Slot) (s : State) : Host.Outcome State Fault Refusal :=
  match s.respond (.rx sl.len) with
  | .waits => .next s
  | .noMeaning => .refused .peerNoMeaning
  | .answered .fail t => .next ((t.spoil sl).raiseTransferError.setPhase .tDesel)
  | .answered (.ok bytes) t => .next ((t.deliver sl.dest bytes).setPhase .tDesel)

/-- The wire frame with address byte `a` (R53): its address byte in T_ADDR, its payload, moved by `move`,
in T_DATA. The controller runs none in another phase (log entry 15). -/
def runFrame (a : Byte) (move : Slot → State → Host.Outcome State Fault Refusal) (s : State) :
    Host.Outcome State Fault Refusal :=
  match s.phase with
  | .tAddr => sendAddress a s
  | .tData =>
    match s.slot with
    | some sl => move sl s
    | none => .fault .slotOutOfRange
  | .idle => .refused .frameOutsideTransaction
  | .tSel => .refused .frameOutsideTransaction
  | .tDesel => .refused .frameOutsideTransaction
  | .tNext => .refused .frameOutsideTransaction

/-! ## Command acceptance and completion -/

/-- Acceptance: `OP <- op; REG <- reg; ARG <- arg; SEQ <- 0; RES <- Ok`, and the first slot starts
(R56, R96 row IDLE). -/
def State.accept (o : Op) (reg : RegIndex) (arg : Byte) (s : State) : State :=
  { s with op := o, reg := reg, arg := arg, seq := 0#4, res := .ok, phase := .tSel }

/-- Step 1 of `init`, the bind (R114). -/
def State.bind (bus : BusRef) (port : PortRef) (pin : PinRef) (s : State) : State :=
  { s with hBus := bus, hPort := port, hPin := pin, bound := true }

/-- A command at the command port: it waits while PHASE is not IDLE, is refused with `why`, or is accepted
into `started` (R56). -/
def atPort (why : Option Refusal) (started : State) (s : State) : Host.Outcome State Fault Refusal :=
  match s.phase with
  | .idle =>
    match why with
    | some r => .refused r
    | none => .next started
  | .tSel => .next s
  | .tAddr => .next s
  | .tData => .next s
  | .tDesel => .next s
  | .tNext => .next s

/-- Refusal (a) of R56: BOUND = 0. -/
def whyUnbound (s : State) : Option Refusal := if s.bound then none else some .unbound

/-- Refusals (a) and (b) of R56: BOUND = 0, or a length of 0. -/
def whyRead (len : Byte) (s : State) : Option Refusal :=
  if s.bound then
    if lengthOk len then none else some .zeroLength
  else some .unbound

/-- Refusals (a), (b) and (c) of R56: BOUND = 0, a length of 0, or a payload of another length. -/
def whyWrite (len : Byte) (payload : List Byte) (s : State) : Option Refusal :=
  if s.bound then
    if lengthOk len then
      if payloadOk len payload then none else some .payloadLength
    else some .zeroLength
  else some .unbound

/-- What the block presents to the caller at completion (R57): the result, and for READ the bytes of
RBUF. -/
def State.completion (s : State) : Completion where
  op := s.op
  res := finalRes s.op s.res
  rbuf := if s.op = .read then s.rbuf else []

/-- Completion: present the result, `PHASE <- IDLE`; for INIT first `RES <- Ok` (R57, R96 row T_NEXT). -/
def State.complete (s : State) : State :=
  { s with res := finalRes s.op s.res, phase := .idle, done := s.done ++ [s.completion] }

/-! ## Slot bookkeeping -/

/-- The start of a slot, less the `select()`: `RES <- Ok`, and ADDR takes the slot's address byte (R96 row
T_SEL, R17). -/
def State.openSlot (sl : Slot) (s : State) : State := { s.clearRes with addr := sl.addressByte }

/-- T_NEXT: advance SEQ, then complete if it is past the last slot, else start the next slot (R96). -/
def State.advance (s : State) : State :=
  let n := s.seq.toNat + seqStep s.op s.seq.toNat s.res
  let t := { s with seq := BitVec.ofNat 4 n }
  if slotCount s.op ≤ n then t.complete else t.setPhase .tSel

/-! ## Hardware reset -/

/-- `rst` is asserted in this step. -/
def State.rstNow (s : State) : Bool := s.rst.headD false

/-- The state with this step's entry of `rst` used up. -/
def State.afterRst (s : State) : State := { s with rst := s.rst.tail }

/-- The replies left when the operation in progress is abandoned: the answer to a request in flight is
ignored whenever it comes (R151; log entry 13). -/
def State.repliesAfterReset (s : State) : List Reply :=
  match s.inFlight with
  | some _ => s.replies.tail
  | none => s.replies

/-- `rst` asserted: the operation in progress is abandoned, the latches take the values of R27, the line
goes to level 1 without an event (R26, R27, R151). The events so far stay on record in `before`; the
caller, the transport's further replies and the peer are outside the block. -/
def State.hardReset (s : State) : State :=
  { s with
    hBus := State.reset.hBus
    hPort := State.reset.hPort
    hPin := State.reset.hPin
    bound := State.reset.bound
    cs := State.reset.cs
    phase := State.reset.phase
    op := State.reset.op
    reg := State.reset.reg
    arg := State.reset.arg
    seq := State.reset.seq
    addr := State.reset.addr
    cur := State.reset.cur
    res := State.reset.res
    replies := s.repliesAfterReset
    before := s.before ++ s.events
    trace := [] }

/-! ## Placing an instruction where the block fetches it -/

/-- The state with this encoded instruction where the next step takes its instruction from (R14, R96): a
command offered first at the command port in IDLE, a frame's address byte in ADDR in T_ADDR, a pin level as
the phase that drives it (log entry 11). -/
def State.place (e : Encoded) (s : State) : State :=
  match e with
  | .cmd o => { s with phase := .idle, cmds := o :: s.cmds, rst := [] }
  | .frame a => { s with phase := .tAddr, addr := a, rst := [] }
  | .pin l => { s with phase := if l = csActive then .tSel else .tDesel, rst := [] }

end Sys2Proof.Machine
end

