-- ==== Sys2Proof/Machine/Bringup.lean ====
section
/-! DEFINITION. The commands of the bring-up sequencer (R110 to R121). As with the other commands, the
meaning is the acceptance and the slots follow (R96, R115). The fields of the word these commands do not
use are latched and never read (R15, R56). -/

namespace Sys2Proof.Machine

/-- INIT: accepted bound or not (R56, R121); the bind happens at acceptance, before any event (R114), then
the twelve slots of R115. -/
def execInit (reg : RegIndex) (arg : Byte) (bus : BusRef) (port : PortRef) (pin : PinRef) (s : State) :
    Host.Outcome State Fault Refusal :=
  atPort none ((s.accept .init reg arg).bind bus port pin) s

/-- RESET, the soft reset of the peer: one write of VAL_RESET_CMD to REG_COMMAND (R110). -/
def execReset (reg : RegIndex) (arg : Byte) (s : State) : Host.Outcome State Fault Refusal :=
  atPort (whyUnbound s) (s.accept .reset reg arg) s

/-- ANTENNA_ON: `set_bits(REG_TXCONTROL, 0x03)` (R111). -/
def execAntennaOn (reg : RegIndex) (arg : Byte) (s : State) : Host.Outcome State Fault Refusal :=
  atPort (whyUnbound s) (s.accept .antennaOn reg arg) s

/-- ANTENNA_OFF: `clear_bits(REG_TXCONTROL, 0x03)` (R112). -/
def execAntennaOff (reg : RegIndex) (arg : Byte) (s : State) : Host.Outcome State Fault Refusal :=
  atPort (whyUnbound s) (s.accept .antennaOff reg arg) s

end Sys2Proof.Machine
end

