-- ==== Sys2Proof/Machine/Frames.lean ====
section
/-! DEFINITION. The wire frames of the transport (R53): an address byte, and if its transmit succeeded one
payload request (R83, R91, R92). -/

namespace Sys2Proof.Machine

/-- WRITE_FRAME: the address byte `enc_w(r)`, then the payload transmitted (R53, R70, R91). -/
def execWriteFrame (r : RegIndex) (s : State) : Host.Outcome State Fault Refusal :=
  runFrame (encW r) sendPayload s

/-- READ_FRAME: the address byte `enc_r(r)`, then the payload received (R53, R71, R92). -/
def execReadFrame (r : RegIndex) (s : State) : Host.Outcome State Fault Refusal :=
  runFrame (encR r) receivePayload s

end Sys2Proof.Machine
end

