-- ==== Sys2Proof/Machine/Gate.lean ====
section
/-! DEFINITION. The chip-select gate: `select()` and `deselect()`, unconditional (R80 to R82). -/

namespace Sys2Proof.Machine

/-- `select() = PinSet(0)` (R80). -/
def execSelect (s : State) : Host.Outcome State Fault Refusal := .next (s.pinSet csActive)

/-- `deselect() = PinSet(1)` (R81). -/
def execDeselect (s : State) : Host.Outcome State Fault Refusal := .next (s.pinSet csInactive)

end Sys2Proof.Machine
end

