-- ==== Sys2Proof/Machine/Transactions.lean ====
section
/-! DEFINITION. The commands of the register transaction controller (R91 to R95). A command's meaning is
its acceptance (R56, R96 row IDLE); its transactions are the further rows of R96, driven by `State.slot`. -/

namespace Sys2Proof.Machine

/-- WRITE: the caller lends WBUF, and the one slot is a write of it to `reg` (R91). -/
def execWrite (reg : RegIndex) (len : Byte) (payload : List Byte) (s : State) :
    Host.Outcome State Fault Refusal :=
  atPort (whyWrite len payload s) { s.accept .write reg len with wbuf := payload } s

/-- READ: the caller lends RBUF, undetermined until a receive succeeds, and the one slot is a read of
`len` bytes from `reg` into it (R92). -/
def execRead (reg : RegIndex) (len : Byte) (s : State) : Host.Outcome State Fault Refusal :=
  atPort (whyRead len s) ((s.accept .read reg len).clobberRbuf len.toNat) s

/-- SET_BITS: a read of one byte into CUR, then a write of `CUR | mask` (R93). -/
def execSetBits (reg : RegIndex) (mask : Byte) (s : State) : Host.Outcome State Fault Refusal :=
  atPort (whyUnbound s) (s.accept .setBits reg mask) s

/-- CLEAR_BITS: a read of one byte into CUR, then a write of `CUR & ~mask` (R94). -/
def execClearBits (reg : RegIndex) (mask : Byte) (s : State) : Host.Outcome State Fault Refusal :=
  atPort (whyUnbound s) (s.accept .clearBits reg mask) s

end Sys2Proof.Machine
end

