-- ==== Sys2Proof/Machine/Dispatch.lean ====
section
/-! DEFINITION. Every instruction and its meaning, one arm each. -/

namespace Sys2Proof.Machine

def exec (i : Instr) (s : State) : Host.Outcome State Fault Refusal :=
  match i with
  | .init reg arg bus port pin => Sys2Proof.Machine.execInit reg arg bus port pin s
  | .reset reg arg => Sys2Proof.Machine.execReset reg arg s
  | .read reg len => Sys2Proof.Machine.execRead reg len s
  | .write reg len payload => Sys2Proof.Machine.execWrite reg len payload s
  | .setBits reg mask => Sys2Proof.Machine.execSetBits reg mask s
  | .clearBits reg mask => Sys2Proof.Machine.execClearBits reg mask s
  | .antennaOn reg arg => Sys2Proof.Machine.execAntennaOn reg arg s
  | .antennaOff reg arg => Sys2Proof.Machine.execAntennaOff reg arg s
  | .writeFrame reg => Sys2Proof.Machine.execWriteFrame reg s
  | .readFrame reg => Sys2Proof.Machine.execReadFrame reg s
  | .select => Sys2Proof.Machine.execSelect s
  | .deselect => Sys2Proof.Machine.execDeselect s

end Sys2Proof.Machine
end

