-- ==== Sys2Proof/Machine/Controller.lean ====
section
/-! DEFINITION. The controller: one row of the step table of R96 for each phase. In IDLE the instruction
is the command offered, in T_SEL and T_DESEL it is the pin level the phase drives, in T_ADDR and T_DATA it is
the wire frame whose address byte stands in ADDR; T_NEXT runs none. -/

namespace Sys2Proof.Machine

/-- IDLE: the command offered first is taken from the port and run; with none offered the block stays idle
(R56, R96). -/
def stepIdle (s : State) : Host.Outcome State Fault Refusal :=
  match s.cmds with
  | [] => .next s
  | o :: rest => exec (decodeCmd o.word o.side) { s with cmds := rest }

/-- T_SEL: open the slot, `select()`, go to T_ADDR (R96). -/
def stepSel (s : State) : Host.Outcome State Fault Refusal :=
  match s.slot with
  | some sl => mapNext (State.setPhase .tAddr) (exec (decodePin csActive) (s.openSlot sl))
  | none => .fault .slotOutOfRange

/-- T_ADDR and T_DATA: run the wire frame of ADDR (R53, R96). -/
def stepFrame (s : State) : Host.Outcome State Fault Refusal :=
  match decodeFrame s.addr with
  | .ok i => exec i s
  | .error _ => .refused .padBitSet

/-- T_DESEL: `deselect()`, go to T_NEXT (R96). -/
def stepDesel (s : State) : Host.Outcome State Fault Refusal :=
  mapNext (State.setPhase .tNext) (exec (decodePin csInactive) s)

/-- T_NEXT: advance (R96). -/
def stepNext (s : State) : Host.Outcome State Fault Refusal := .next s.advance

/-- One row of R96, by phase. -/
def stepPhase (s : State) : Host.Outcome State Fault Refusal :=
  match s.phase with
  | .idle => stepIdle s
  | .tSel => stepSel s
  | .tAddr => stepFrame s
  | .tData => stepFrame s
  | .tDesel => stepDesel s
  | .tNext => stepNext s

/-- One step: hardware reset where `rst` is asserted, which overrides everything (R135, R151), else one row
of R96. -/
def stepOnce (s : State) : Host.Outcome State Fault Refusal :=
  if s.rstNow then .next s.afterRst.hardReset else stepPhase s.afterRst

end Sys2Proof.Machine
end

