-- ==== Sys2Proof/Machine/Step.lean ====
section
/-! DEFINITION. The step of the machine, and the placing of an instruction word where it is fetched. -/

namespace Sys2Proof.Machine

/-- One step of the block (R96, R151). -/
def step (s : State) : Host.Outcome State Fault Refusal := stepOnce s

/-- `s` with the instruction of this opcode-table word where the next step fetches it; a word that is no
encoding changes nothing. -/
def State.withFetchWord (s : State) (nbits w : Nat) : State :=
  match tableEncoded nbits w with
  | .ok e => s.place e
  | .error _ => s

end Sys2Proof.Machine
end

