-- ==== Sys2Proof/Machine/Pseudocode.lean ====
section
/-! DEFINITION. The eight operations as the pseudocode of R91 to R94 and R110 to R113 writes them: as
whole operations over the transport's answers, with no phases, no SEQ and no slot table. The controller of
R96 is a second, independent description of the same operations; claims compare the two. -/

namespace Sys2Proof.Machine.Pseudo

/-- The handle an operation's events carry (R7, R11). -/
structure Handle where
  bus  : BusRef
  port : PortRef
  pin  : PinRef
  deriving DecidableEq, Repr

/-- A finished operation: its trace, its result, the bytes it received (meaningful where the result is
Ok), and the answers it left (R163). -/
structure Run where
  events : List Event
  res    : Result
  bytes  : List Byte
  rest   : List Answer
  deriving DecidableEq, Repr

/-- `CS(level)` (R7). -/
def cs (h : Handle) (l : Level) : Event := .pin h.port h.pin l

/-- `TX[bytes]->a` (R7). -/
def tx (h : Handle) (bytes : List Byte) (a : Answer) : Event := .tx h.bus bytes Config.timeout (some a)

/-- `RX(n)->a` (R7). -/
def rx (h : Handle) (n : Nat) (a : Answer) : Event := .rx h.bus n Config.timeout (some a)

/-- The run with these events before its own. -/
def Run.after (before : List Event) (x : Run) : Run := { x with events := before ++ x.events }

/-- `MemWrite(r, n, v)` (R91), `n` the length of `v`. `none` where the transport leaves a request
unanswered: the operation then never completes (R156). -/
def memWrite (h : Handle) (r : RegIndex) (v : List Byte) (as : List Answer) : Option Run :=
  match as with
  | .fail :: rest =>
    some ⟨[cs h csActive, tx h [encW r] .fail, cs h csInactive], .transferError, [], rest⟩
  | .ok _ :: .fail :: rest =>
    some ⟨[cs h csActive, tx h [encW r] (.ok []), tx h v .fail, cs h csInactive], .transferError, [], rest⟩
  | .ok _ :: .ok _ :: rest =>
    some ⟨[cs h csActive, tx h [encW r] (.ok []), tx h v (.ok []), cs h csInactive], .ok, [], rest⟩
  | _ => none

/-- `MemRead(r, n)` (R92). An answer `ok` to the receive that does not bring `n` bytes is no answer (R7);
the bytes are empty where the result is TransferError, which gives them no value. -/
def memRead (h : Handle) (r : RegIndex) (n : Nat) (as : List Answer) : Option Run :=
  match as with
  | .fail :: rest =>
    some ⟨[cs h csActive, tx h [encR r] .fail, cs h csInactive], .transferError, [], rest⟩
  | .ok _ :: .fail :: rest =>
    some ⟨[cs h csActive, tx h [encR r] (.ok []), rx h n .fail, cs h csInactive], .transferError, [], rest⟩
  | .ok _ :: .ok b :: rest =>
    if b.length = n then
      some ⟨[cs h csActive, tx h [encR r] (.ok []), rx h n (.ok b), cs h csInactive], .ok, b, rest⟩
    else none
  | _ => none

/-- A read of one byte `c` from `r`, then a write of `f c` to `r`; after a failed read no write
transaction (R93 to R95). -/
def readModifyWrite (h : Handle) (r : RegIndex) (f : Byte → Byte) (as : List Answer) : Option Run :=
  match memRead h r 1 as with
  | none => none
  | some x =>
    match x.res, x.bytes with
    | .ok, [c] => (memWrite h r [f c] x.rest).map (Run.after x.events)
    | .ok, _ => none
    | .transferError, _ => some x
    | .timeout, _ => none

/-- `set_bits(r, m)` (R93). -/
def setBits (h : Handle) (r : RegIndex) (m : Byte) : List Answer → Option Run :=
  readModifyWrite h r (fun c => c ||| m)

/-- `clear_bits(r, m)` (R94). -/
def clearBits (h : Handle) (r : RegIndex) (m : Byte) : List Answer → Option Run :=
  readModifyWrite h r (fun c => c &&& ~~~m)

/-- `reset()` (R110). -/
def reset (h : Handle) : List Answer → Option Run := memWrite h Config.regCommand [Config.valResetCmd]

/-- `antenna_on()` (R111). -/
def antennaOn (h : Handle) : List Answer → Option Run := setBits h Config.regTxControl 0x03#8

/-- `antenna_off()` (R112). -/
def antennaOff (h : Handle) : List Answer → Option Run := clearBits h Config.regTxControl 0x03#8

/-- Calls one after another, every result discarded, result Ok (R113, R116, R117). -/
def discarding (calls : List (List Answer → Option Run)) (as : List Answer) : Option Run :=
  match calls with
  | [] => some ⟨[], .ok, [], as⟩
  | f :: fs =>
    match f as with
    | none => none
    | some x => (discarding fs x.rest).map (Run.after x.events)

/-- Steps 2 to 5 of `init` in the document's order (R113). -/
def initCalls (h : Handle) : List (List Answer → Option Run) :=
  [ reset h,
    memWrite h Config.regTMode [Config.valTMode],
    memWrite h Config.regTPrescaler [Config.valTPrescaler],
    memWrite h Config.regTReloadL [Config.valTReloadL],
    memWrite h Config.regTReloadH [Config.valTReloadH],
    memWrite h Config.regTxAsk [Config.valTxAsk],
    memWrite h Config.regMode [Config.valMode],
    memWrite h Config.regIEn1 [0xFF#8],
    memWrite h Config.regIEn2 [0xFF#8],
    antennaOn h,
    memRead h 0x37#6 1 ]

/-- `init(bus, port, pin)` after its bind (R113); `h` is the handle bound. -/
def init (h : Handle) : List Answer → Option Run := discarding (initCalls h)

/-- The operation a command starts, on the handle `h` it finds bound; `init` runs on the handle it binds.
The frames and the gate's micro-operations are no commands (R61). -/
def operation (i : Instr) (h : Handle) (as : List Answer) : Option Run :=
  match i with
  | .init _ _ bus port pin => init ⟨bus, port, pin⟩ as
  | .reset _ _ => reset h as
  | .read r len => memRead h r len.toNat as
  | .write r _ payload => memWrite h r payload as
  | .setBits r m => setBits h r m as
  | .clearBits r m => clearBits h r m as
  | .antennaOn _ _ => antennaOn h as
  | .antennaOff _ _ => antennaOff h as
  | .writeFrame _ => none
  | .readFrame _ => none
  | .select => none
  | .deselect => none

end Sys2Proof.Machine.Pseudo
end

