-- ==== Sys2Proof/Safety.lean ====
section
/-! DEFINITION. The terms claims are stated in: runs of several steps, the premises at the start of an
operation (R165), the chip-select bracket (R83, R84), and the invariant every step keeps. -/

namespace Sys2Proof.Machine

/-- `k` steps of the machine. -/
def run (k : Nat) (s : State) : Host.Outcome State Fault Refusal :=
  match k with
  | 0 => .next s
  | k + 1 =>
    match step s with
    | .next t => run k t
    | .fault r => .fault r
    | .refused r => .refused r

/-- Accept the instruction, then `k` steps. -/
def runOp (i : Instr) (k : Nat) (s : State) : Host.Outcome State Fault Refusal :=
  match exec i s with
  | .next t => run k t
  | .fault r => .fault r
  | .refused r => .refused r

/-! ## What an operation leaves -/

/-- `CS(level)` on the handle of the state (R7). -/
def State.evCS (s : State) (l : Level) : Event := .pin s.hPort s.hPin l

/-- `TX[bytes]->a` on the handle of the state (R7). -/
def State.evTx (s : State) (bytes : List Byte) (a : Answer) : Event :=
  .tx s.hBus bytes Config.timeout (some a)

/-- `RX(n)->a` on the handle of the state (R7). -/
def State.evRx (s : State) (n : Nat) (a : Answer) : Event := .rx s.hBus n Config.timeout (some a)

/-- What an operation that ran from `s` to its completion leaves: OP, REG, ARG and SEQ as accepted and
advanced, ADDR and RES of its last slot, `events` added to the trace, `rest` of the replies, one more
completion with `rbuf`, and the reference peer's frame ended. EVERY OTHER FIELD IS THAT OF `s`: the handle,
BOUND, CS, PHASE, CUR, the buffers, the offers, the peer's memory, `rst` and the record before reset. -/
def State.afterOp (s : State) (o : Op) (reg : RegIndex) (arg : Byte) (seq : BitVec 4) (addr : Byte)
    (res : Result) (events : List Event) (rest : List Reply) (rbuf : List Byte) : State :=
  { s with
    op := o
    reg := reg
    arg := arg
    seq := seq
    addr := addr
    res := res
    trace := s.trace ++ events
    replies := rest
    done := s.done ++ [⟨o, res, rbuf⟩]
    peer := { s.peer with frame := .none } }

/-- `i` is one of the eight commands, the operations a caller can issue (R52, R61). -/
def isCommand (i : Instr) : Bool :=
  match i with
  | .init _ _ _ _ _ => true
  | .reset _ _ => true
  | .read _ _ => true
  | .write _ _ _ => true
  | .setBits _ _ => true
  | .clearBits _ _ => true
  | .antennaOn _ _ => true
  | .antennaOff _ _ => true
  | .writeFrame _ => false
  | .readFrame _ => false
  | .select => false
  | .deselect => false

/-- `i` is INIT. -/
def isInit (i : Instr) : Bool :=
  match i with
  | .init _ _ _ _ _ => true
  | .reset _ _ => false
  | .read _ _ => false
  | .write _ _ _ => false
  | .setBits _ _ => false
  | .clearBits _ _ => false
  | .antennaOn _ _ => false
  | .antennaOff _ _ => false
  | .writeFrame _ => false
  | .readFrame _ => false
  | .select => false
  | .deselect => false

/-- The command's operation code; IDLE's next OP (R52, R56). -/
def opOf (i : Instr) : Op :=
  match i with
  | .init _ _ _ _ _ => .init
  | .reset _ _ => .reset
  | .read _ _ => .read
  | .write _ _ _ => .write
  | .setBits _ _ => .setBits
  | .clearBits _ _ => .clearBits
  | .antennaOn _ _ => .antennaOn
  | .antennaOff _ _ => .antennaOff
  | .writeFrame _ => .write
  | .readFrame _ => .read
  | .select => .init
  | .deselect => .init

/-- PHASE is IDLE, CS is 1 and hardware reset is not asserted from here on: the premises of R165 that
concern every operation. -/
structure Ready (s : State) : Prop where
  idle  : s.phase = .idle
  level : s.cs = csInactive
  noRst : s.rst = []

/-- The event is a pin event. -/
def isPin (e : Event) : Bool :=
  match e with
  | .pin _ _ _ => true
  | .tx _ _ _ _ => false
  | .rx _ _ _ _ => false

/-- The event is a transport request. -/
def isRequest (e : Event) : Bool :=
  match e with
  | .pin _ _ _ => false
  | .tx _ _ _ _ => true
  | .rx _ _ _ _ => true

/-- Where a trace stands in the chip-select bracket of R83. -/
inductive Bracket where
  /-- No transaction: the line is released. -/
  | released
  /-- After `CS(0)`: the address byte is due. -/
  | selected
  /-- After an address byte answered `ok`: the payload transfer is due. -/
  | addressed
  /-- After the payload transfer, or after a failed address byte: `CS(1)` is due. -/
  | finished
  deriving DecidableEq, Repr

/-- The bracket after one more event; `none` where R83 forbids the event. A request counts when it is
answered. -/
def Bracket.next (b : Bracket) (e : Event) : Option Bracket :=
  match b, e with
  | .released, .pin _ _ l => if l = csActive then some .selected else none
  | .selected, .tx _ [_] _ (some (.ok _)) => some .addressed
  | .selected, .tx _ [_] _ (some .fail) => some .finished
  | .addressed, .tx _ _ _ (some _) => some .finished
  | .addressed, .rx _ _ _ (some _) => some .finished
  | .finished, .pin _ _ l => if l = csInactive then some .released else none
  | _, _ => none

/-- The bracket after a list of events. -/
def Bracket.after (b : Bracket) (es : List Event) : Option Bracket :=
  match es with
  | [] => some b
  | e :: rest =>
    match b.next e with
    | some c => Bracket.after c rest
    | none => none

/-- The bracket the controller is in, by phase (R14). -/
def Phase.bracket (p : Phase) : Bracket :=
  match p with
  | .idle => .released
  | .tSel => .released
  | .tAddr => .selected
  | .tData => .addressed
  | .tDesel => .finished
  | .tNext => .released

/-- The chip is selected in this phase (R14). -/
def Phase.selected (p : Phase) : Bool :=
  match p with
  | .idle => false
  | .tSel => false
  | .tAddr => true
  | .tData => true
  | .tDesel => true
  | .tNext => false

/-- The operand conditions under which the running command was accepted (R56 (b), (c)). -/
def State.operandsOk (s : State) : Bool :=
  match s.op with
  | .init => true
  | .reset => true
  | .read => lengthOk s.arg
  | .write => lengthOk s.arg && payloadOk s.arg s.wbuf
  | .setBits => true
  | .clearBits => true
  | .antennaOn => true
  | .antennaOff => true

/-- The invariant: what holds after hardware reset and after every step. -/
structure Inv (s : State) : Prop where
  /-- CS is the level the phase stands for (R13, R14): 0 between `select()` and `deselect()`, else 1. -/
  level : s.cs = if s.phase.selected then csActive else csInactive
  /-- An operation runs only with the handle bound (R12, R56, R82). -/
  bound : s.phase ≠ .idle → s.bound = true
  /-- SEQ indexes a slot of the operation in progress (R16). -/
  slot : s.phase ≠ .idle → s.seq.toNat < slotCount s.op
  /-- ADDR holds the address byte of the slot in progress (R17). -/
  address : s.phase.selected = true → ∃ sl, s.slot = some sl ∧ s.addr = sl.addressByte
  /-- The operation in progress was not one to refuse (R56). -/
  operands : s.phase ≠ .idle → s.operandsOk = true
  /-- RES is not the reserved Timeout (R132). -/
  result : s.res ≠ .timeout
  /-- No result presented was the reserved Timeout (R132). -/
  results : ∀ c ∈ s.done, c.res ≠ .timeout
  /-- The trace keeps the bracket of R83 and stands where the phase stands. -/
  bracket : Bracket.after .released s.trace = some s.phase.bracket
  /-- The reference peer's memory is in its canonical form. -/
  memory : s.peer.mem.wf = true

/-- `h` is the handle of the state (R11). -/
def State.handle (s : State) : Pseudo.Handle := ⟨s.hBus, s.hPort, s.hPin⟩

/-- Two states that differ at most in the scratch latches OP, REG, ARG, SEQ, ADDR, CUR and RES, and in the
caller's buffers (R165: "No premise concerns the scratch latches or RES"). -/
def sameButScratch (s t : State) : Prop :=
  t = { s with op := t.op, reg := t.reg, arg := t.arg, seq := t.seq, addr := t.addr, cur := t.cur,
               res := t.res, wbuf := t.wbuf, rbuf := t.rbuf }

end Sys2Proof.Machine
end

