-- ==== Sys2Proof/Certificates/Slice0/Obligations.lean ====
section
/-! DEFINITION. The statements about the model, for the provers: stated here, proved elsewhere. -/

section

open Sys2Proof Sys2Proof.Machine

/-! ## Encoding -/

/-- Decoding an encoded well-formed instruction gives it back, every operand at every value. -/
def Obligations.DecodeEncodeAgree : Prop :=
  ∀ i : Instr, wellFormed i = true → decode (encode i) = .ok i

/-- Encoding a decoded word gives the word back, in each format: no bit of a command word, of an address
byte or of a pin level is dropped. -/
def Obligations.EncodeDecodeAgree : Prop :=
  (∀ (w : CmdWord) (side : Side), ∃ side', encode (decodeCmd w side) = .cmd ⟨w, side'⟩) ∧
  (∀ (a : Byte) (i : Instr), decodeFrame a = .ok i → encode i = .frame a) ∧
  (∀ l : Level, encode (decodePin l) = .pin l)

/-- The command words and address bytes worked out in spec/30_encoding.md section 7 and
spec/95_test_vectors.md section 3.1 decode to what they stand for. The table's numbering, and the payload of
zeros that a WRITE word of the table brings because the table has no WBUF, are the model's choice
(log entry 10). -/
def Obligations.WorkedWordsDecode : Prop :=
  decodeTableWord 17 0x0B701 = some (.read 0x37#6 0x01#8) ∧
  decodeTableWord 17 0x0EA01 = some (.write 0x2A#6 0x01#8 [0x00#8]) ∧
  decodeCmd 0x0D102#17 { noSide with wbuf := [0x3D#8, 0x00#8] } = .write 0x11#6 0x02#8 [0x3D#8, 0x00#8] ∧
  decodeTableWord 17 0x11403 = some (.setBits 0x14#6 0x03#8) ∧
  decodeTableWord 17 0x17FFF = some (.clearBits 0x3F#6 0xFF#8) ∧
  decodeTableWord 17 0x04ABC = some (.reset 0x0A#6 0xBC#8) ∧
  decodeTableWord 17 0x18000 = some (.antennaOn 0x00#6 0x00#8) ∧
  decodeTableWord 17 0x1C000 = some (.antennaOff 0x00#6 0x00#8) ∧
  decodeCmd 0x00000#17 ⟨⟨7⟩, ⟨8⟩, ⟨4⟩, []⟩ = .init 0x00#6 0x00#8 ⟨7⟩ ⟨8⟩ ⟨4⟩ ∧
  decodeTableWord 8 0x54 = some (.writeFrame 0x2A#6) ∧
  decodeTableWord 8 0xEE = some (.readFrame 0x37#6) ∧
  decodeTableWord 1 0 = some .select ∧
  decodeTableWord 1 1 = some .deselect

/-- The bits 16:14 of a command's word are its op code. -/
def Obligations.OpCodesOfCommands : Prop :=
  ∀ i : Instr, isCommand i = true → ∃ o, encode i = .cmd o ∧ cmdOp o.word = (opOf i).code

/-- `enc_w` and `enc_r` by both of the spec's lines, at the ends of the range and at the worked examples,
and the bounds the corner cases give. -/
def Obligations.AddressEncoderFormulas : Prop :=
  (∀ r : RegIndex,
    encW r = ((r.setWidth 8 <<< 1) &&& 0x7E#8) ∧ encW r = 0#1 ++ r ++ 0#1 ∧
    (encW r).toNat % 2 = 0 ∧ (encW r).toNat < 0x80 ∧
    encR r = (((r.setWidth 8 <<< 1) &&& 0x7E#8) ||| 0x80#8) ∧ encR r = encW r ||| 0x80#8 ∧
    encR r = 1#1 ++ r ++ 0#1 ∧ encR r = encW r + 0x80#8 ∧
    (encR r).toNat % 2 = 0 ∧ 0x80 ≤ (encR r).toNat) ∧
  encW 0#6 = 0x00#8 ∧ encW 63#6 = 0x7E#8 ∧ encW 0x2A#6 = 0x54#8 ∧
  encR 0#6 = 0x80#8 ∧ encR 63#6 = 0xFE#8 ∧ encR 0x37#6 = 0xEE#8

/-- The properties (a) to (d) of the two encoders. -/
def Obligations.AddressByteProperties : Prop :=
  (∀ r : RegIndex, (encW r).getLsbD 7 = false ∧ (encW r).getLsbD 0 = false) ∧
  (∀ r : RegIndex, (encR r).getLsbD 7 = true ∧ (encR r).getLsbD 0 = false) ∧
  (∀ r : RegIndex, (encW r).extractLsb' 1 6 = r ∧ (encR r).extractLsb' 1 6 = r) ∧
  (∀ r q : RegIndex, encW r = encW q → r = q) ∧
  (∀ r q : RegIndex, encR r = encR q → r = q) ∧
  (∀ r q : RegIndex, encW r ≠ encR q) ∧
  (∀ b : Byte, b.getLsbD 0 = false ↔ ∃ r : RegIndex, b = encW r ∨ b = encR r)

/-- Decoding an address byte: a read if bit 7 is 1, a write if it is 0, the index in bits 6:1, on the
encoders' ranges their inverse. -/
def Obligations.AddressByteDecoding : Prop :=
  (∀ a : Byte, frameIsRead a = a.getLsbD 7 ∧ frameIndex a = a.extractLsb' 1 6) ∧
  (∀ a : Byte, framePad a = false → a.getLsbD 7 = true →
    decodeFrame a = .ok (.readFrame (a.extractLsb' 1 6))) ∧
  (∀ a : Byte, framePad a = false → a.getLsbD 7 = false →
    decodeFrame a = .ok (.writeFrame (a.extractLsb' 1 6))) ∧
  (∀ r : RegIndex, decodeFrame (encW r) = .ok (.writeFrame r) ∧
    decodeFrame (encR r) = .ok (.readFrame r))

/-- The encodings with no meaning are rejected by name: an address byte with bit 0 set (`padBitSet`), a table
word of a width no format has (`noSuchWidth`), a table word with a bit above its format (`bitsAboveFormat`);
the decoder gives no instruction for any of them. How table words are numbered, a command word of 24 bits in
whole bytes among them, is the model's choice (log entry 10). -/
def Obligations.RejectedEncodings : Prop :=
  (∀ a : Byte, a.getLsbD 0 = true → decode (.frame a) = .error .padBitSet) ∧
  (∀ n w : Nat, n ≠ 1 → n ≠ 8 → n ≠ 17 → n ≠ 24 →
    tableEncoded n w = .error .noSuchWidth ∧ decodeTableWord n w = none) ∧
  (∀ w : Nat, 2 ≤ w → tableEncoded 1 w = .error .bitsAboveFormat ∧ decodeTableWord 1 w = none) ∧
  (∀ w : Nat, 2 ^ 8 ≤ w → tableEncoded 8 w = .error .bitsAboveFormat ∧ decodeTableWord 8 w = none) ∧
  (∀ w : Nat, 2 ^ 17 ≤ w → tableEncoded 17 w = .error .bitsAboveFormat ∧ decodeTableWord 17 w = none) ∧
  (∀ w : Nat, 2 ^ 17 ≤ w → tableEncoded 24 w = .error .bitsAboveFormat ∧ decodeTableWord 24 w = none)

/-! ## The chip-select gate -/

/-- `select()` in every state: it emits `PIN(H_PORT, H_PIN, 0)` and sets CS to 0, and nothing else of the
block changes; the reference peer sees the line fall. -/
def Obligations.SelectDrivesLow : Prop :=
  isCommand .select = false ∧
  ∀ s : State,
    exec .select s =
      .next { s with
                     cs := 0#1, trace := s.trace ++ [.pin s.hPort s.hPin 0#1],
                     peer := { s.peer with frame := .await } }

/-- `deselect()` in every state: it emits `PIN(H_PORT, H_PIN, 1)` and sets CS to 1, and nothing else of the
block changes; the reference peer sees the line rise. -/
def Obligations.DeselectDrivesHigh : Prop :=
  isCommand .deselect = false ∧
  ∀ s : State,
    exec .deselect s =
      .next { s with
                     cs := 1#1, trace := s.trace ++ [.pin s.hPort s.hPin 1#1],
                     peer := { s.peer with frame := .none } }

/-! ## Command acceptance -/

/-- The three refusals at acceptance: while BOUND = 0 every command but INIT, a READ or WRITE of length 0, a
WRITE whose payload has another length. The names of the refusals, and which is named where several apply,
are the model's choice (log entry 18). That INIT is accepted bound or not says InitBindsAtAcceptance. -/
def Obligations.RefusalsAtAcceptance : Prop :=
  (∀ (i : Instr) (s : State), s.phase = .idle → isCommand i = true → isInit i = false → s.bound = false →
    exec i s = .refused .unbound) ∧
  (∀ (r : RegIndex) (s : State), s.phase = .idle → s.bound = true →
    exec (.read r 0#8) s = .refused .zeroLength) ∧
  (∀ (r : RegIndex) (v : List Byte) (s : State), s.phase = .idle → s.bound = true →
    exec (.write r 0#8 v) s = .refused .zeroLength) ∧
  (∀ (r : RegIndex) (len : Byte) (v : List Byte) (s : State), s.phase = .idle → s.bound = true →
    len ≠ 0#8 → v.length ≠ len.toNat → exec (.write r len v) s = .refused .payloadLength)

/-- A command is accepted only in IDLE: in every other phase it waits, changing nothing, and no step takes
an offered command from the port or drops it. -/
def Obligations.BusyCommandsWait : Prop :=
  (∀ (i : Instr) (s : State), isCommand i = true → s.phase ≠ .idle → exec i s = .next s) ∧
  (∀ s t : State, s.phase ≠ .idle → step s = .next t → t.cmds = s.cmds)

/-- Acceptance of the seven commands other than INIT: OP, REG and ARG take the command's fields, SEQ is 0,
RES is Ok, the first slot starts; nothing else changes but the buffer the caller lends, which for READ is
undetermined (log entry 5). No event is emitted. -/
def Obligations.AcceptanceLatchesFields : Prop :=
  ∀ (s : State) (r : RegIndex) (a : Byte), s.phase = .idle → s.bound = true →
    exec (.reset r a) s =
      .next { s with op := .reset, reg := r, arg := a, seq := 0#4, res := .ok, phase := .tSel } ∧
    exec (.setBits r a) s =
      .next { s with op := .setBits, reg := r, arg := a, seq := 0#4, res := .ok, phase := .tSel } ∧
    exec (.clearBits r a) s =
      .next { s with op := .clearBits, reg := r, arg := a, seq := 0#4, res := .ok, phase := .tSel } ∧
    exec (.antennaOn r a) s =
      .next { s with op := .antennaOn, reg := r, arg := a, seq := 0#4, res := .ok, phase := .tSel } ∧
    exec (.antennaOff r a) s =
      .next { s with op := .antennaOff, reg := r, arg := a, seq := 0#4, res := .ok, phase := .tSel } ∧
    (a ≠ 0#8 → exec (.read r a) s =
      .next { s with
                     op := .read, reg := r, arg := a, seq := 0#4, res := .ok, phase := .tSel,
                     rbuf := freeBytes s.freeIdx a.toNat, freeIdx := s.freeIdx + a.toNat }) ∧
    (∀ v : List Byte, a ≠ 0#8 → v.length = a.toNat → exec (.write r a v) s =
      .next { s with op := .write, reg := r, arg := a, seq := 0#4, res := .ok, phase := .tSel, wbuf := v })

/-- Acceptance of INIT, bound or not: the three handle latches and BOUND are written in the one step, before
any event. -/
def Obligations.InitBindsAtAcceptance : Prop :=
  ∀ (s : State) (r : RegIndex) (a : Byte) (bus : BusRef) (port : PortRef) (pin : PinRef), s.phase = .idle →
    exec (.init r a bus port pin) s =
      .next { s with
                     op := .init, reg := r, arg := a, seq := 0#4, res := .ok, phase := .tSel,
                     hBus := bus, hPort := port, hPin := pin, bound := true }

/-! ## The wire frames -/

/-- WRITE_FRAME in its two phases: the address byte `enc_w(r)` alone in one request, then the slot's bytes
in one request; a failure sets RES, skips what is left and goes to T_DESEL; nothing else changes. -/
def Obligations.WriteFrameTransfers : Prop :=
  ∀ (s : State) (r : RegIndex) (sl : Slot) (b : List Byte) (rest : List Reply),
    (s.phase = .tAddr → s.replies = .given (.ok b) :: rest →
      exec (.writeFrame r) s = .next { s with
        phase := .tData, replies := rest,
        trace := s.trace ++ [s.evTx [encW r] (.ok [])] }) ∧
    (s.phase = .tAddr → s.replies = .given .fail :: rest →
      exec (.writeFrame r) s = .next { s with
        phase := .tDesel, replies := rest, res := .transferError,
        trace := s.trace ++ [s.evTx [encW r] .fail] }) ∧
    (s.phase = .tData → s.slot = some sl → s.replies = .given (.ok b) :: rest →
      exec (.writeFrame r) s = .next { s with
        phase := .tDesel, replies := rest,
        trace := s.trace ++ [s.evTx sl.data (.ok [])] }) ∧
    (s.phase = .tData → s.slot = some sl → s.replies = .given .fail :: rest →
      exec (.writeFrame r) s = .next { s with
        phase := .tDesel, replies := rest, res := .transferError,
        trace := s.trace ++ [s.evTx sl.data .fail] })

/-- READ_FRAME in its two phases: the address byte `enc_r(r)`, then a receive of the slot's length whose
bytes go to RBUF, to CUR or nowhere; a failed receive sets RES and leaves RBUF undetermined where it was the
destination (log entry 5). -/
def Obligations.ReadFrameTransfers : Prop :=
  ∀ (s : State) (r : RegIndex) (sl : Slot) (b : List Byte) (rest : List Reply),
    (s.phase = .tAddr → s.replies = .given (.ok b) :: rest →
      exec (.readFrame r) s = .next { s with
        phase := .tData, replies := rest,
        trace := s.trace ++ [s.evTx [encR r] (.ok [])] }) ∧
    (s.phase = .tAddr → s.replies = .given .fail :: rest →
      exec (.readFrame r) s = .next { s with
        phase := .tDesel, replies := rest, res := .transferError,
        trace := s.trace ++ [s.evTx [encR r] .fail] }) ∧
    (s.phase = .tData → s.slot = some sl → b.length = sl.len → s.replies = .given (.ok b) :: rest →
      exec (.readFrame r) s = .next { s with
        phase := .tDesel, replies := rest,
        trace := s.trace ++ [s.evRx sl.len (.ok b)],
        rbuf := if sl.dest = .rbuf then b else s.rbuf,
        cur := if sl.dest = .cur then b.headD s.cur else s.cur }) ∧
    (s.phase = .tData → s.slot = some sl → s.replies = .given .fail :: rest →
      exec (.readFrame r) s = .next { s with
        phase := .tDesel, replies := rest, res := .transferError,
        trace := s.trace ++ [s.evRx sl.len .fail],
        rbuf := if sl.dest = .rbuf then freeBytes s.freeIdx sl.len else s.rbuf,
        freeIdx := if sl.dest = .rbuf then s.freeIdx + sl.len else s.freeIdx })

/-- The wire frames in the cases that complete no transfer: a request without an answer is waited on (that
waiting is a step that answers the same state is the model's choice, log entry 3), a
frame outside T_ADDR and T_DATA is refused (the model's choice, log entry 15), and SEQ past the slots is a
fault no run reaches (log entry 16). -/
def Obligations.FramesWaitOrStop : Prop :=
  ∀ (s : State) (r : RegIndex) (i : Instr), i = .writeFrame r ∨ i = .readFrame r →
    (s.phase = .tAddr ∨ (s.phase = .tData ∧ s.slot ≠ none) → s.replies = [] → exec i s = .next s) ∧
    (s.phase ≠ .tAddr → s.phase ≠ .tData → exec i s = .refused .frameOutsideTransaction) ∧
    (s.phase = .tData → s.slot = none → exec i s = .fault .slotOutOfRange)

/-- A receive answered `ok` delivers exactly the bytes asked for: of a longer answer the first ones, and
after a shorter answer free bytes (the model's choice, log entries 4 and 5). They go to RBUF, the first of
them to CUR, or nowhere, as the slot says, and nothing else changes but the count of free bytes. -/
def Obligations.ReceiveFitsLength : Prop :=
  ∀ (s : State) (r : RegIndex) (sl : Slot) (b : List Byte) (rest : List Reply),
    s.phase = .tData → s.slot = some sl → s.replies = .given (.ok b) :: rest →
    ∃ v n, v.length = sl.len ∧ (∀ j, j < b.length → j < sl.len → v[j]? = b[j]?) ∧
      exec (.readFrame r) s = .next { s with
        phase := .tDesel, replies := rest, freeIdx := n,
        trace := s.trace ++ [s.evRx sl.len (.ok v)],
        rbuf := if sl.dest = .rbuf then v else s.rbuf,
        cur := if sl.dest = .cur then v.headD s.cur else s.cur }

/-- The wire frames where the reference peer answers: an address byte opens the peer's frame, a one-byte
payload is stored or delivered, and a payload of another length has no meaning to the peer. -/
def Obligations.FramesThroughReferencePeer : Prop :=
  ∀ (s : State) (r q : RegIndex) (sl : Slot) (rest : List Reply), s.replies = .fromPeer :: rest →
    (s.phase = .tAddr → s.peer.frame = .await →
      exec (.writeFrame r) s = .next { s with
        phase := .tData, replies := rest,
        trace := s.trace ++ [s.evTx [encW r] (.ok [])], peer := { s.peer with frame := .wr r } } ∧
      exec (.readFrame r) s = .next { s with
        phase := .tData, replies := rest,
        trace := s.trace ++ [s.evTx [encR r] (.ok [])], peer := { s.peer with frame := .rd r } }) ∧
    (s.phase = .tData → s.slot = some sl → s.peer.frame = .wr q →
      (∀ v, sl.data = [v] → exec (.writeFrame r) s = .next { s with
        phase := .tDesel, replies := rest,
        trace := s.trace ++ [s.evTx [v] (.ok [])],
        peer := if s.peer.readOnly q then s.peer else
          { s.peer with mem := s.peer.mem.write q.toNat v } }) ∧
      (sl.data.length ≠ 1 → exec (.writeFrame r) s = .refused .peerNoMeaning)) ∧
    (s.phase = .tData → s.slot = some sl → s.peer.frame = .rd q →
      (sl.len = 1 → exec (.readFrame r) s = .next { s with
        phase := .tDesel, replies := rest,
        trace := s.trace ++ [s.evRx 1 (.ok [s.peer.mem.read q.toNat])],
        rbuf := if sl.dest = .rbuf then [s.peer.mem.read q.toNat] else s.rbuf,
        cur := if sl.dest = .cur then s.peer.mem.read q.toNat else s.cur }) ∧
      (sl.len ≠ 1 → exec (.readFrame r) s = .refused .peerNoMeaning))

/-! ## Whole operations -/

/-- `write`: the three outcomes W1 to W3, with the trace, the result, and everything else as it was; WBUF
is the payload lent, unchanged. What SEQ holds after completion is said by SlotAdvance (log entry 9). -/
def Obligations.WriteOutcomes : Prop :=
  ∀ (s : State) (r : RegIndex) (len : Byte) (v b₁ b₂ : List Byte) (rest : List Reply),
    Ready s → s.bound = true → wellFormed (.write r len v) = true →
    ∃ t, exec (.write r len v) s = .next t ∧
      (s.replies = .given (.ok b₁) :: .given (.ok b₂) :: rest →
        ∃ q, run 5 t = .next { s.afterOp .write r len q (encW r) .ok
          [s.evCS 0#1, s.evTx [encW r] (.ok []), s.evTx v (.ok []), s.evCS 1#1] rest [] with wbuf := v }) ∧
      (s.replies = .given (.ok b₁) :: .given .fail :: rest →
        ∃ q, run 5 t = .next { s.afterOp .write r len q (encW r) .transferError
          [s.evCS 0#1, s.evTx [encW r] (.ok []), s.evTx v .fail, s.evCS 1#1] rest [] with wbuf := v }) ∧
      (s.replies = .given .fail :: rest →
        ∃ q, run 4 t = .next { s.afterOp .write r len q (encW r) .transferError
          [s.evCS 0#1, s.evTx [encW r] .fail, s.evCS 1#1] rest [] with wbuf := v })

/-- `read`: the three outcomes RD1 to RD3; on success RBUF is the bytes received, after a failure it is
undetermined (free bytes, log entry 5); SEQ past the last slot is the model's reading (log entry 9). -/
def Obligations.ReadOutcomes : Prop :=
  ∀ (s : State) (r : RegIndex) (len : Byte) (b₁ b : List Byte) (rest : List Reply),
    Ready s → s.bound = true → wellFormed (.read r len) = true →
    ∃ t, exec (.read r len) s = .next t ∧
      (b.length = len.toNat → s.replies = .given (.ok b₁) :: .given (.ok b) :: rest →
        run 5 t = .next { s.afterOp .read r len 1#4 (encR r) .ok
          [s.evCS 0#1, s.evTx [encR r] (.ok []), s.evRx len.toNat (.ok b), s.evCS 1#1] rest b with
          rbuf := b
          freeIdx := s.freeIdx + len.toNat }) ∧
      (s.replies = .given (.ok b₁) :: .given .fail :: rest →
        run 5 t = .next { s.afterOp .read r len 1#4 (encR r) .transferError
          [s.evCS 0#1, s.evTx [encR r] (.ok []), s.evRx len.toNat .fail, s.evCS 1#1] rest
          (freeBytes (s.freeIdx + len.toNat) len.toNat) with
          rbuf := freeBytes (s.freeIdx + len.toNat) len.toNat
          freeIdx := s.freeIdx + len.toNat + len.toNat }) ∧
      (s.replies = .given .fail :: rest →
        run 4 t = .next { s.afterOp .read r len 1#4 (encR r) .transferError
          [s.evCS 0#1, s.evTx [encR r] .fail, s.evCS 1#1] rest (freeBytes s.freeIdx len.toNat) with
          rbuf := freeBytes s.freeIdx len.toNat
          freeIdx := s.freeIdx + len.toNat })

/-- `set_bits`: the five outcomes S1 to S5; the byte written back is `c | m`, also where that is `c`; after
a failed read no write transaction. -/
def Obligations.SetBitsOutcomes : Prop :=
  ∀ (s : State) (r : RegIndex) (m c : Byte) (b₁ b₃ b₄ : List Byte) (rest : List Reply),
    Ready s → s.bound = true →
    ∃ t, exec (.setBits r m) s = .next t ∧
      (s.replies = .given (.ok b₁) :: .given (.ok [c]) :: .given (.ok b₃) :: .given (.ok b₄) :: rest →
        ∃ q, run 10 t = .next { s.afterOp .setBits r m q (encW r) .ok
          [s.evCS 0#1, s.evTx [encR r] (.ok []), s.evRx 1 (.ok [c]), s.evCS 1#1,
           s.evCS 0#1, s.evTx [encW r] (.ok []), s.evTx [c ||| m] (.ok []), s.evCS 1#1] rest [] with
          cur := c }) ∧
      (s.replies = .given (.ok b₁) :: .given (.ok [c]) :: .given (.ok b₃) :: .given .fail :: rest →
        ∃ q, run 10 t = .next { s.afterOp .setBits r m q (encW r) .transferError
          [s.evCS 0#1, s.evTx [encR r] (.ok []), s.evRx 1 (.ok [c]), s.evCS 1#1,
           s.evCS 0#1, s.evTx [encW r] (.ok []), s.evTx [c ||| m] .fail, s.evCS 1#1] rest [] with
          cur := c }) ∧
      (s.replies = .given (.ok b₁) :: .given (.ok [c]) :: .given .fail :: rest →
        ∃ q, run 9 t = .next { s.afterOp .setBits r m q (encW r) .transferError
          [s.evCS 0#1, s.evTx [encR r] (.ok []), s.evRx 1 (.ok [c]), s.evCS 1#1,
           s.evCS 0#1, s.evTx [encW r] .fail, s.evCS 1#1] rest [] with cur := c }) ∧
      (s.replies = .given (.ok b₁) :: .given .fail :: rest →
        ∃ q, run 5 t = .next (s.afterOp .setBits r m q (encR r) .transferError
          [s.evCS 0#1, s.evTx [encR r] (.ok []), s.evRx 1 .fail, s.evCS 1#1] rest [])) ∧
      (s.replies = .given .fail :: rest →
        ∃ q, run 4 t = .next (s.afterOp .setBits r m q (encR r) .transferError
          [s.evCS 0#1, s.evTx [encR r] .fail, s.evCS 1#1] rest []))

/-- `clear_bits`: the five outcomes X1 to X5; the byte written back is `c & ~m`, `~` the 8-bit
complement. -/
def Obligations.ClearBitsOutcomes : Prop :=
  ∀ (s : State) (r : RegIndex) (m c : Byte) (b₁ b₃ b₄ : List Byte) (rest : List Reply),
    Ready s → s.bound = true →
    ∃ t, exec (.clearBits r m) s = .next t ∧
      (s.replies = .given (.ok b₁) :: .given (.ok [c]) :: .given (.ok b₃) :: .given (.ok b₄) :: rest →
        ∃ q, run 10 t = .next { s.afterOp .clearBits r m q (encW r) .ok
          [s.evCS 0#1, s.evTx [encR r] (.ok []), s.evRx 1 (.ok [c]), s.evCS 1#1,
           s.evCS 0#1, s.evTx [encW r] (.ok []), s.evTx [c &&& (0xFF#8 - m)] (.ok []), s.evCS 1#1] rest []
          with cur := c }) ∧
      (s.replies = .given (.ok b₁) :: .given (.ok [c]) :: .given (.ok b₃) :: .given .fail :: rest →
        ∃ q, run 10 t = .next { s.afterOp .clearBits r m q (encW r) .transferError
          [s.evCS 0#1, s.evTx [encR r] (.ok []), s.evRx 1 (.ok [c]), s.evCS 1#1,
           s.evCS 0#1, s.evTx [encW r] (.ok []), s.evTx [c &&& (0xFF#8 - m)] .fail, s.evCS 1#1] rest []
          with cur := c }) ∧
      (s.replies = .given (.ok b₁) :: .given (.ok [c]) :: .given .fail :: rest →
        ∃ q, run 9 t = .next { s.afterOp .clearBits r m q (encW r) .transferError
          [s.evCS 0#1, s.evTx [encR r] (.ok []), s.evRx 1 (.ok [c]), s.evCS 1#1,
           s.evCS 0#1, s.evTx [encW r] .fail, s.evCS 1#1] rest [] with cur := c }) ∧
      (s.replies = .given (.ok b₁) :: .given .fail :: rest →
        ∃ q, run 5 t = .next (s.afterOp .clearBits r m q (encR r) .transferError
          [s.evCS 0#1, s.evTx [encR r] (.ok []), s.evRx 1 .fail, s.evCS 1#1] rest [])) ∧
      (s.replies = .given .fail :: rest →
        ∃ q, run 4 t = .next (s.afterOp .clearBits r m q (encR r) .transferError
          [s.evCS 0#1, s.evTx [encR r] .fail, s.evCS 1#1] rest []))

/-- `reset`: one write transaction of VAL_RESET_CMD to REG_COMMAND, its outcome the result; no latch but the
scratch ones changes, so BOUND stays and CS ends at 1. -/
def Obligations.ResetOutcomes : Prop :=
  ∀ (s : State) (r : RegIndex) (a : Byte) (b₁ b₂ : List Byte) (rest : List Reply),
    Ready s → s.bound = true →
    ∃ t, exec (.reset r a) s = .next t ∧
      (s.replies = .given (.ok b₁) :: .given (.ok b₂) :: rest →
        ∃ q, run 5 t = .next (s.afterOp .reset r a q (encW Config.regCommand) .ok
          [s.evCS 0#1, s.evTx [encW Config.regCommand] (.ok []), s.evTx [Config.valResetCmd] (.ok []),
           s.evCS 1#1] rest [])) ∧
      (s.replies = .given (.ok b₁) :: .given .fail :: rest →
        ∃ q, run 5 t = .next (s.afterOp .reset r a q (encW Config.regCommand) .transferError
          [s.evCS 0#1, s.evTx [encW Config.regCommand] (.ok []), s.evTx [Config.valResetCmd] .fail,
           s.evCS 1#1] rest [])) ∧
      (s.replies = .given .fail :: rest →
        ∃ q, run 4 t = .next (s.afterOp .reset r a q (encW Config.regCommand) .transferError
          [s.evCS 0#1, s.evTx [encW Config.regCommand] .fail, s.evCS 1#1] rest []))

/-- `antenna_on`: a read of REG_TXCONTROL, then a write of the byte with bits 1:0 set and bits 7:2 as
read; its result is that of the failing or the last transaction. -/
def Obligations.AntennaOnOutcomes : Prop :=
  ∀ (s : State) (r : RegIndex) (a c : Byte) (b₁ b₃ b₄ : List Byte) (rest : List Reply),
    Ready s → s.bound = true →
    ∃ t, exec (.antennaOn r a) s = .next t ∧
      (s.replies = .given (.ok b₁) :: .given (.ok [c]) :: .given (.ok b₃) :: .given (.ok b₄) :: rest →
        ∃ q, run 10 t = .next { s.afterOp .antennaOn r a q (encW Config.regTxControl) .ok
          [s.evCS 0#1, s.evTx [encR Config.regTxControl] (.ok []), s.evRx 1 (.ok [c]), s.evCS 1#1,
           s.evCS 0#1, s.evTx [encW Config.regTxControl] (.ok []),
           s.evTx [c.extractLsb' 2 6 ++ 0b11#2] (.ok []), s.evCS 1#1] rest [] with cur := c }) ∧
      (s.replies = .given (.ok b₁) :: .given (.ok [c]) :: .given (.ok b₃) :: .given .fail :: rest →
        ∃ q, run 10 t = .next { s.afterOp .antennaOn r a q (encW Config.regTxControl) .transferError
          [s.evCS 0#1, s.evTx [encR Config.regTxControl] (.ok []), s.evRx 1 (.ok [c]), s.evCS 1#1,
           s.evCS 0#1, s.evTx [encW Config.regTxControl] (.ok []),
           s.evTx [c.extractLsb' 2 6 ++ 0b11#2] .fail, s.evCS 1#1] rest [] with cur := c }) ∧
      (s.replies = .given (.ok b₁) :: .given (.ok [c]) :: .given .fail :: rest →
        ∃ q, run 9 t = .next { s.afterOp .antennaOn r a q (encW Config.regTxControl) .transferError
          [s.evCS 0#1, s.evTx [encR Config.regTxControl] (.ok []), s.evRx 1 (.ok [c]), s.evCS 1#1,
           s.evCS 0#1, s.evTx [encW Config.regTxControl] .fail, s.evCS 1#1] rest [] with cur := c }) ∧
      (s.replies = .given (.ok b₁) :: .given .fail :: rest →
        ∃ q, run 5 t = .next (s.afterOp .antennaOn r a q (encR Config.regTxControl) .transferError
          [s.evCS 0#1, s.evTx [encR Config.regTxControl] (.ok []), s.evRx 1 .fail, s.evCS 1#1] rest [])) ∧
      (s.replies = .given .fail :: rest →
        ∃ q, run 4 t = .next (s.afterOp .antennaOn r a q (encR Config.regTxControl) .transferError
          [s.evCS 0#1, s.evTx [encR Config.regTxControl] .fail, s.evCS 1#1] rest []))

/-- `antenna_off`: as `antenna_on`, bits 1:0 cleared. -/
def Obligations.AntennaOffOutcomes : Prop :=
  ∀ (s : State) (r : RegIndex) (a c : Byte) (b₁ b₃ b₄ : List Byte) (rest : List Reply),
    Ready s → s.bound = true →
    ∃ t, exec (.antennaOff r a) s = .next t ∧
      (s.replies = .given (.ok b₁) :: .given (.ok [c]) :: .given (.ok b₃) :: .given (.ok b₄) :: rest →
        ∃ q, run 10 t = .next { s.afterOp .antennaOff r a q (encW Config.regTxControl) .ok
          [s.evCS 0#1, s.evTx [encR Config.regTxControl] (.ok []), s.evRx 1 (.ok [c]), s.evCS 1#1,
           s.evCS 0#1, s.evTx [encW Config.regTxControl] (.ok []),
           s.evTx [c.extractLsb' 2 6 ++ 0b00#2] (.ok []), s.evCS 1#1] rest [] with cur := c }) ∧
      (s.replies = .given (.ok b₁) :: .given (.ok [c]) :: .given (.ok b₃) :: .given .fail :: rest →
        ∃ q, run 10 t = .next { s.afterOp .antennaOff r a q (encW Config.regTxControl) .transferError
          [s.evCS 0#1, s.evTx [encR Config.regTxControl] (.ok []), s.evRx 1 (.ok [c]), s.evCS 1#1,
           s.evCS 0#1, s.evTx [encW Config.regTxControl] (.ok []),
           s.evTx [c.extractLsb' 2 6 ++ 0b00#2] .fail, s.evCS 1#1] rest [] with cur := c }) ∧
      (s.replies = .given (.ok b₁) :: .given (.ok [c]) :: .given .fail :: rest →
        ∃ q, run 9 t = .next { s.afterOp .antennaOff r a q (encW Config.regTxControl) .transferError
          [s.evCS 0#1, s.evTx [encR Config.regTxControl] (.ok []), s.evRx 1 (.ok [c]), s.evCS 1#1,
           s.evCS 0#1, s.evTx [encW Config.regTxControl] .fail, s.evCS 1#1] rest [] with cur := c }) ∧
      (s.replies = .given (.ok b₁) :: .given .fail :: rest →
        ∃ q, run 5 t = .next (s.afterOp .antennaOff r a q (encR Config.regTxControl) .transferError
          [s.evCS 0#1, s.evTx [encR Config.regTxControl] (.ok []), s.evRx 1 .fail, s.evCS 1#1] rest [])) ∧
      (s.replies = .given .fail :: rest →
        ∃ q, run 4 t = .next (s.afterOp .antennaOff r a q (encR Config.regTxControl) .transferError
          [s.evCS 0#1, s.evTx [encR Config.regTxControl] .fail, s.evCS 1#1] rest []))

/-- `init` with every request answered `ok`: the twelve transactions of the slot table in their order, 48
events, every event on the handle just bound; result Ok; the version byte is kept nowhere. SEQ at 12 is
the model's reading (log entry 9). -/
def Obligations.InitTraceWhenAllAnswered : Prop :=
  ∀ (s h : State) (r : RegIndex) (a c v : Byte) (bus : BusRef) (port : PortRef) (pin : PinRef)
    (rest : List Reply),
    Ready s → h = { s with hBus := bus, hPort := port, hPin := pin, bound := true } →
    s.replies = List.replicate 19 (.given (.ok [])) ++ [.given (.ok [c])] ++
      List.replicate 3 (.given (.ok [])) ++ [.given (.ok [v])] ++ rest →
    ∃ t, exec (.init r a bus port pin) s = .next t ∧
      run 60 t = .next { h.afterOp .init r a 12#4 (encR 0x37#6) .ok
        ([h.evCS 0#1, h.evTx [encW Config.regCommand] (.ok []), h.evTx [Config.valResetCmd] (.ok []),
          h.evCS 1#1] ++
         [h.evCS 0#1, h.evTx [encW Config.regTMode] (.ok []), h.evTx [Config.valTMode] (.ok []),
          h.evCS 1#1] ++
         [h.evCS 0#1, h.evTx [encW Config.regTPrescaler] (.ok []), h.evTx [Config.valTPrescaler] (.ok []),
          h.evCS 1#1] ++
         [h.evCS 0#1, h.evTx [encW Config.regTReloadL] (.ok []), h.evTx [Config.valTReloadL] (.ok []),
          h.evCS 1#1] ++
         [h.evCS 0#1, h.evTx [encW Config.regTReloadH] (.ok []), h.evTx [Config.valTReloadH] (.ok []),
          h.evCS 1#1] ++
         [h.evCS 0#1, h.evTx [encW Config.regTxAsk] (.ok []), h.evTx [Config.valTxAsk] (.ok []),
          h.evCS 1#1] ++
         [h.evCS 0#1, h.evTx [encW Config.regMode] (.ok []), h.evTx [Config.valMode] (.ok []),
          h.evCS 1#1] ++
         [h.evCS 0#1, h.evTx [encW Config.regIEn1] (.ok []), h.evTx [0xFF#8] (.ok []), h.evCS 1#1] ++
         [h.evCS 0#1, h.evTx [encW Config.regIEn2] (.ok []), h.evTx [0xFF#8] (.ok []), h.evCS 1#1] ++
         [h.evCS 0#1, h.evTx [encR Config.regTxControl] (.ok []), h.evRx 1 (.ok [c]), h.evCS 1#1] ++
         [h.evCS 0#1, h.evTx [encW Config.regTxControl] (.ok []), h.evTx [c ||| 0x03#8] (.ok []),
          h.evCS 1#1] ++
         [h.evCS 0#1, h.evTx [encR 0x37#6] (.ok []), h.evRx 1 (.ok [v]), h.evCS 1#1]) rest []
        with cur := c }

/-- `init` whatever the transport answers: it completes with Ok (R117), having bound the handle (R114), asked
for the transmit-control register and the version register (R116); it emits 33 to 48 events (R119). -/
def Obligations.InitAlwaysCompletesOk : Prop :=
  ∀ (s : State) (r : RegIndex) (a : Byte) (bus : BusRef) (port : PortRef) (pin : PinRef)
    (as : List Answer) (rest : List Reply),
    Ready s → as.length = 24 → s.replies = as.map Reply.given ++ rest →
    ∃ t u k new, exec (.init r a bus port pin) s = .next t ∧ k ≤ 60 ∧ run k t = .next u ∧ Ready u ∧
      u.res = .ok ∧ u.done = s.done ++ [⟨.init, .ok, []⟩] ∧
      u.bound = true ∧ u.hBus = bus ∧ u.hPort = port ∧ u.hPin = pin ∧
      u.trace = s.trace ++ new ∧ 33 ≤ new.length ∧ new.length ≤ 48 ∧
      (∃ x, Event.tx bus [encR Config.regTxControl] Config.timeout (some x) ∈ new) ∧
      (∃ x, Event.tx bus [encR 0x37#6] Config.timeout (some x) ∈ new)

/-- Every command the block accepts completes when the transport answers its requests, within a bound on
its events: 4 for `write`, `read` and `reset`, 8 for the read-modify-write commands, 48 for `init`. -/
def Obligations.CommandsComplete : Prop :=
  ∀ (i : Instr) (s : State) (as : List Answer) (rest : List Reply),
    Ready s → isCommand i = true → wellFormed i = true → (isInit i = true ∨ s.bound = true) →
    as.length = 2 * slotCount (opOf i) → s.replies = as.map Reply.given ++ rest →
    ∃ t u k new res rbuf, exec i s = .next t ∧ run k t = .next u ∧ Ready u ∧
      u.done = s.done ++ [⟨opOf i, res, rbuf⟩] ∧ u.res = res ∧ res ≠ .timeout ∧
      u.trace = s.trace ++ new ∧ new.length ≤ 4 * slotCount (opOf i)

/-- The step machine refines the pseudocode: where an operation's pseudocode finishes on the transport's
answers, the command is accepted and the steps of the controller end with the same trace, the same result,
the same bytes received and the same answers left. -/
def Obligations.StepMachineRefinesPseudocode : Prop :=
  ∀ (i : Instr) (s : State) (as : List Answer) (x : Pseudo.Run),
    Ready s → isCommand i = true → wellFormed i = true → (isInit i = true ∨ s.bound = true) →
    s.replies = as.map Reply.given → Pseudo.operation i s.handle as = some x →
    ∃ t u k, exec i s = .next t ∧ run k t = .next u ∧ Ready u ∧
      u.trace = s.trace ++ x.events ∧ u.res = x.res ∧ u.replies = x.rest.map Reply.given ∧
      (∃ rbuf, u.done = s.done ++ [⟨opOf i, x.res, rbuf⟩] ∧
        (opOf i = .read → x.res = .ok → rbuf = x.bytes)) ∧
      (isInit i = false → u.handle = s.handle) ∧ u.bound = true

/-- `reset`, `antenna_on` and `antenna_off` behave as their expansions: at every number of steps the two
commands have emitted the same events and stand in the same phase with the same result. -/
def Obligations.ExpansionsAgree : Prop :=
  (∀ (s t t' u : State) (r : RegIndex) (a : Byte) (k : Nat), s.cmds = [] →
    exec (.reset r a) s = .next t → exec (.write Config.regCommand 1#8 [Config.valResetCmd]) s = .next t' →
    run k t = .next u → ∃ u', run k t' = .next u' ∧ u'.events = u.events ∧ u'.phase = u.phase ∧
      u'.res = u.res ∧ u'.done.map Completion.res = u.done.map Completion.res) ∧
  (∀ (s t t' u : State) (r : RegIndex) (a : Byte) (k : Nat), s.cmds = [] →
    exec (.antennaOn r a) s = .next t → exec (.setBits Config.regTxControl 0x03#8) s = .next t' →
    run k t = .next u → ∃ u', run k t' = .next u' ∧ u'.events = u.events ∧ u'.phase = u.phase ∧
      u'.res = u.res ∧ u'.done.map Completion.res = u.done.map Completion.res) ∧
  (∀ (s t t' u : State) (r : RegIndex) (a : Byte) (k : Nat), s.cmds = [] →
    exec (.antennaOff r a) s = .next t → exec (.clearBits Config.regTxControl 0x03#8) s = .next t' →
    run k t = .next u → ∃ u', run k t' = .next u' ∧ u'.events = u.events ∧ u'.phase = u.phase ∧
      u'.res = u.res ∧ u'.done.map Completion.res = u.done.map Completion.res)

/-! ## The controller -/

/-- Where hardware reset is not asserted, a step runs the decoded instruction: the command offered in IDLE
(taken from the port), the frame of ADDR in T_ADDR and T_DATA, the pin level of the phase in T_SEL (after
the slot is opened) and T_DESEL, and moves on to the phase after a gate operation. The step's entry of `rst`
is used up. -/
def Obligations.StepRunsDecodedInstruction : Prop :=
  ∀ (s : State) (i : Instr), s.rstNow = false →
    (∀ (o : Offer) (rest : List Offer), s.phase = .idle → s.cmds = o :: rest → decode (.cmd o) = .ok i →
      step s = exec i { s with cmds := rest, rst := s.rst.tail }) ∧
    (s.phase = .tAddr ∨ s.phase = .tData → decode (.frame s.addr) = .ok i →
      step s = exec i { s with rst := s.rst.tail }) ∧
    (∀ sl : Slot, s.phase = .tSel → s.slot = some sl → decode (.pin 0#1) = .ok i →
      step s = mapNext (fun t => { t with phase := .tAddr })
        (exec i { s with rst := s.rst.tail, res := .ok, addr := sl.addressByte })) ∧
    (s.phase = .tDesel → decode (.pin 1#1) = .ok i →
      step s = mapNext (fun t => { t with phase := .tNext }) (exec i { s with rst := s.rst.tail }))

/-- T_NEXT: SEQ advances by 2 after a failed read slot of a read-modify-write (slot 0 of SET_BITS,
CLEAR_BITS, ANTENNA_ON, ANTENNA_OFF; slot 9 of INIT), else by 1; within the operation's slots the next slot
starts, past them the operation completes: the result is presented, for INIT always Ok, and PHASE is IDLE.
Only SEQ, PHASE, RES and what was presented change. That SEQ stands past the last slot after completion is
log entry 9. -/
def Obligations.SlotAdvance : Prop :=
  ∀ (s : State) (n : Nat), s.rstNow = false → s.phase = .tNext →
    n = s.seq.toNat + (if s.res = .transferError ∧
        ((s.op = .init ∧ s.seq = 9#4) ∨ (s.seq = 0#4 ∧
          (s.op = .setBits ∨ s.op = .clearBits ∨ s.op = .antennaOn ∨ s.op = .antennaOff)))
      then 2 else 1) →
    (n < slotCount s.op →
      step s = .next { s with rst := s.rst.tail, seq := BitVec.ofNat 4 n, phase := .tSel }) ∧
    (slotCount s.op ≤ n →
      step s = .next { s with
        rst := s.rst.tail
        seq := BitVec.ofNat 4 n
        phase := .idle
        res := if s.op = .init then .ok else s.res
        done := s.done ++ [⟨s.op, if s.op = .init then .ok else s.res,
          if s.op = .read then s.rbuf else []⟩] })

/-- A transport that does not answer blocks the block for ever: while hardware reset is not asserted no
step changes anything (but uses up the unasserted `rst` entries), with the line low; offered commands
wait. That waiting is a step, and that an empty list of replies is a transport that never answers, is the
model's choice (log entry 3). -/
def Obligations.UnansweredRequestBlocks : Prop :=
  ∀ (s : State) (k : Nat), Inv s → s.inFlight ≠ none → s.replies = [] → (∀ b ∈ s.rst.take k, b = false) →
    run k s = .next { s with rst := s.rst.drop k } ∧ s.cs = 0#1

/-- Hardware reset in any state: the operation in progress is abandoned without a result or an event, the
latches take their reset values, the line is at level 1, the answer to a request in flight is dropped; the
caller's side and the peer are untouched. -/
def Obligations.HardwareReset : Prop :=
  ∀ (s : State) (later : List Bool), s.rst = true :: later →
    ∃ t, step s = .next t ∧
      t.bound = false ∧ t.cs = 1#1 ∧ t.phase = .idle ∧ t.seq = 0#4 ∧
      t.before ++ t.events = s.before ++ s.events ∧ t.done = s.done ∧ t.inFlight = none ∧
      (s.inFlight ≠ none → t.replies = s.replies.tail) ∧ (s.inFlight = none → t.replies = s.replies) ∧
      t.cmds = s.cmds ∧ t.wbuf = s.wbuf ∧ t.rbuf = s.rbuf ∧ t.peer = s.peer ∧ t.rst = later

/-- The machine right after reset: BOUND = 0, CS = 1, PHASE = IDLE, SEQ = 0, nothing emitted; INIT is
accepted, every other command refused. -/
def Obligations.ResetState : Prop :=
  State.reset.bound = false ∧ State.reset.cs = 1#1 ∧ State.reset.phase = .idle ∧ State.reset.seq = 0#4 ∧
  State.reset.events = [] ∧
  (∀ i : Instr, isCommand i = true → isInit i = true → ∃ t, exec i State.reset = .next t) ∧
  (∀ i : Instr, isCommand i = true → isInit i = false → exec i State.reset = .refused .unbound)

/-! ## Invariants and whole-machine rules -/

/-- The invariant holds right after reset. -/
def Obligations.InvariantAtReset : Prop := Inv State.reset

/-- Every step keeps the invariant: the line level and the bracket of the trace follow the phase, SEQ
indexes a slot, ADDR is the slot's address byte, an operation runs only bound and with good operands, no
result is Timeout, the reference peer's memory stays canonical. -/
def Obligations.StepKeepsInvariant : Prop :=
  ∀ s t : State, Inv s → step s = .next t → Inv t

/-- A state that meets the invariant never faults, and a step is refused only for a command R56 refuses in
IDLE, or for a request the reference peer gives no meaning. The names of the refusals are the model's (log
entry 18). -/
def Obligations.OnlySpecifiedStops : Prop :=
  ∀ s : State, Inv s →
    (∃ t, step s = .next t) ∨
    (s.phase = .idle ∧ ∃ o rest r, s.cmds = o :: rest ∧ step s = .refused r ∧
      ((r = .unbound ∧ isInit (decodeCmd o.word o.side) = false ∧ s.bound = false) ∨
        ((r = .zeroLength ∨ r = .payloadLength) ∧ wellFormed (decodeCmd o.word o.side) = false))) ∨
    (∃ q rest, s.inFlight = some q ∧ s.replies = .fromPeer :: rest ∧ s.peer.onRequest q = none ∧
      step s = .refused .peerNoMeaning)

/-- The handle and BOUND change only by the acceptance of INIT, which writes all of them, and by hardware
reset, which clears BOUND. -/
def Obligations.HandleWrittenOnlyByInit : Prop :=
  ∀ s t : State, step s = .next t →
    (t.hBus = s.hBus ∧ t.hPort = s.hPort ∧ t.hPin = s.hPin ∧ t.bound = s.bound) ∨
    (s.rstNow = true ∧ t.bound = false) ∨
    (s.rstNow = false ∧ s.phase = .idle ∧ ∃ o rest, s.cmds = o :: rest ∧ cmdOp o.word = 0b000#3 ∧
      t.hBus = o.side.bus ∧ t.hPort = o.side.port ∧ t.hPin = o.side.pin ∧ t.bound = true)

/-- CS changes only with a pin event of its new level, or by hardware reset to 1; a step that leaves it
alone adds no event but transport requests. -/
def Obligations.LineFollowsPinEvents : Prop :=
  ∀ s t : State, step s = .next t →
    (s.rstNow = true ∧ t.cs = 1#1) ∨
    (∃ l, t.cs = l ∧ t.trace = s.trace ++ [.pin s.hPort s.hPin l]) ∨
    (t.cs = s.cs ∧ ∃ new, t.trace = s.trace ++ new ∧ ∀ e ∈ new, isRequest e = true)

/-- A step adds at most one event to the record `trace`, which holds a request once it is answered (log
entry 23), and a transport request is answered or outstanding only while the chip is selected. -/
def Obligations.RequestsOnlyWhileSelected : Prop :=
  ∀ s t : State, Inv s → s.rstNow = false → step s = .next t →
    (∃ new, t.trace = s.trace ++ new ∧ new.length ≤ 1 ∧
      ∀ e ∈ new, isRequest e = true → s.cs = 0#1) ∧
    (t.inFlight ≠ none → t.cs = 0#1)

/-- SEQ inside an operation: it never decreases, advances by at most 2, and never exceeds 11. -/
def Obligations.SlotIndexOnlyAdvances : Prop :=
  ∀ s t : State, Inv s → s.rstNow = false → s.phase ≠ .idle → step s = .next t →
    s.seq.toNat ≤ 11 ∧ (t.phase ≠ .idle → s.seq.toNat ≤ t.seq.toNat ∧ t.seq.toNat ≤ s.seq.toNat + 2 ∧
      t.seq.toNat ≤ 11 ∧ t.op = s.op ∧ t.reg = s.reg ∧ t.arg = s.arg)

/-- The fields of the word that INIT, RESET, ANTENNA_ON and ANTENNA_OFF do not use have no effect: after
every number of steps the runs have emitted the same events, presented the same completions and stand in the
same phase with the same result. -/
def Obligations.UnusedFieldsHaveNoEffect : Prop :=
  ∀ (i j : Instr) (s t t' u : State) (k : Nat) (r r' : RegIndex) (a a' : Byte) (bus : BusRef)
    (port : PortRef) (pin : PinRef),
    ((i = .init r a bus port pin ∧ j = .init r' a' bus port pin) ∨
      (i = .reset r a ∧ j = .reset r' a') ∨
      (i = .antennaOn r a ∧ j = .antennaOn r' a') ∨ (i = .antennaOff r a ∧ j = .antennaOff r' a')) →
    s.phase = .idle → exec i s = .next t → exec j s = .next t' → run k t = .next u →
    ∃ u', run k t' = .next u' ∧ u' = { u with reg := u'.reg, arg := u'.arg }

/-- What an operation does depends on no earlier operation's leftovers: from two IDLE states that differ
only in the scratch latches, RES and the caller's buffers, the same command's runs agree in the events, the
phase, the result and the completions presented. -/
def Obligations.ScratchHasNoInfluence : Prop :=
  ∀ (i : Instr) (s s' t u : State) (k : Nat), sameButScratch s s' → s.phase = .idle → isCommand i = true →
    exec i s = .next t → run k t = .next u →
    ∃ t' u', exec i s' = .next t' ∧ run k t' = .next u' ∧ u'.events = u.events ∧ u'.phase = u.phase ∧
      u'.res = u.res ∧ u'.done = u.done ∧ u'.peer = u.peer ∧ u'.cs = u.cs

/-! ## The reference peer -/

/-- A register of the reference peer reads back the last byte stored to it, and every other register is
unchanged. -/
def Obligations.PeerMemoryReadAfterWrite : Prop :=
  ∀ (m : Memory) (a b : Nat) (v : Byte), m.wf = true → a < 64 →
    (m.write a v).wf = true ∧ (m.write a v).read a = v ∧ (b ≠ a → (m.write a v).read b = m.read b)

/-- The reference peer's answers: an address byte opens a write or a read frame, a one-byte transmit in a
write frame stores unless the register is read-only, a receive of one byte in a read frame returns the
register. -/
def Obligations.PeerAnswers : Prop :=
  ∀ (p : Peer) (r : RegIndex) (v : Byte),
    (p.frame = .await →
      p.onRequest (.tx [encW r]) = some ({ p with frame := .wr r }, .ok []) ∧
      p.onRequest (.tx [encR r]) = some ({ p with frame := .rd r }, .ok [])) ∧
    (p.frame = .wr r → p.readOnly r = true → p.onRequest (.tx [v]) = some (p, .ok [])) ∧
    (p.frame = .wr r → p.readOnly r = false →
      p.onRequest (.tx [v]) = some ({ p with mem := p.mem.write r.toNat v }, .ok [])) ∧
    (p.frame = .rd r → p.onRequest (.rx 1) = some (p, .ok [p.mem.read r.toNat]))

/-- With the reference peer answering every request and `r` no read-only register: `set_bits` then `read`
yields `original | mask`, `clear_bits` then `read` yields `original & ~mask`, `write` then `read` yields the
byte written, `set_bits` then `clear_bits` leaves `original & ~mask` and the other way round
`original | mask`; each operation ends Ok, with the block ready for the next. -/
def Obligations.ReadBackThroughReferencePeer : Prop :=
  ∀ (s : State) (r : RegIndex) (m v : Byte) (rest : List Reply) (c : Byte),
    Ready s → s.bound = true → s.peer.mem.wf = true → s.peer.readOnly r = false →
    s.replies = List.replicate 8 Reply.fromPeer ++ rest → c = s.peer.mem.read r.toNat →
    (∃ u w, runOp (.setBits r m) 10 s = .next u ∧ runOp (.read r 1#8) 5 u = .next w ∧ Ready u ∧ u.res = .ok ∧
      Ready w ∧ w.res = .ok ∧ w.rbuf = [c ||| m]) ∧
    (∃ u w, runOp (.clearBits r m) 10 s = .next u ∧ runOp (.read r 1#8) 5 u = .next w ∧ Ready u ∧ u.res = .ok ∧
      Ready w ∧ w.res = .ok ∧ w.rbuf = [c &&& ~~~m]) ∧
    (∃ u w, runOp (.write r 1#8 [v]) 5 s = .next u ∧ runOp (.read r 1#8) 5 u = .next w ∧ Ready u ∧ u.res = .ok ∧
      Ready w ∧ w.res = .ok ∧ w.rbuf = [v]) ∧
    (∃ u w, runOp (.setBits r m) 10 s = .next u ∧ runOp (.clearBits r m) 10 u = .next w ∧ Ready u ∧ u.res = .ok ∧
      Ready w ∧ w.res = .ok ∧ w.peer.mem.read r.toNat = c &&& ~~~m) ∧
    (∃ u w, runOp (.clearBits r m) 10 s = .next u ∧ runOp (.setBits r m) 10 u = .next w ∧ Ready u ∧ u.res = .ok ∧
      Ready w ∧ w.res = .ok ∧ w.peer.mem.read r.toNat = c ||| m)

end
end

