-- ==== Sys2Proof/Laws/Encoding.lean ====
section
/-! SUPPORT. The address encoder and the field tables: what each encoded form decodes to. -/

namespace Sys2Proof

/-! ## Address bytes (R70 to R73) -/

theorem Machine.encW_eq_concat (r : RegIndex) : Machine.encW r = 0#1 ++ r ++ 0#1 := by
  revert r; decide

theorem Machine.encR_eq_concat (r : RegIndex) : Machine.encR r = 1#1 ++ r ++ 0#1 := by
  revert r; decide

@[simp] theorem framePad_encW (r : RegIndex) : framePad (Machine.encW r) = false := by
  revert r; decide

@[simp] theorem framePad_encR (r : RegIndex) : framePad (Machine.encR r) = false := by
  revert r; decide

@[simp] theorem frameIsRead_encW (r : RegIndex) : frameIsRead (Machine.encW r) = false := by
  revert r; decide

@[simp] theorem frameIsRead_encR (r : RegIndex) : frameIsRead (Machine.encR r) = true := by
  revert r; decide

@[simp] theorem frameIndex_encW (r : RegIndex) : frameIndex (Machine.encW r) = r := by
  revert r; decide

@[simp] theorem frameIndex_encR (r : RegIndex) : frameIndex (Machine.encR r) = r := by
  revert r; decide

@[simp] theorem decodeFrame_encW (r : RegIndex) :
    decodeFrame (Machine.encW r) = .ok (.writeFrame r) := by
  simp [decodeFrame]

@[simp] theorem decodeFrame_encR (r : RegIndex) :
    decodeFrame (Machine.encR r) = .ok (.readFrame r) := by
  simp [decodeFrame]

/-! ## The fields of a command word (R51) -/

@[simp] theorem cmdOp_cmdWord (op : BitVec 3) (reg : RegIndex) (arg : Byte) :
    cmdOp (cmdWord op reg arg) = op := by
  ext i hi
  simp only [cmdOp, cmdWord, BitVec.getElem_extractLsb', BitVec.getLsbD_append]
  rw [if_neg (by omega), if_neg (by omega), ← BitVec.getLsbD_eq_getElem]
  congr 1
  omega

@[simp] theorem cmdReg_cmdWord (op : BitVec 3) (reg : RegIndex) (arg : Byte) :
    cmdReg (cmdWord op reg arg) = reg := by
  ext i hi
  simp only [cmdReg, cmdWord, BitVec.getElem_extractLsb', BitVec.getLsbD_append]
  rw [if_neg (by omega), if_pos (by omega), ← BitVec.getLsbD_eq_getElem]
  congr 1
  omega

@[simp] theorem cmdArg_cmdWord (op : BitVec 3) (reg : RegIndex) (arg : Byte) :
    cmdArg (cmdWord op reg arg) = arg := by
  ext i hi
  simp only [cmdArg, cmdWord, BitVec.getElem_extractLsb', BitVec.getLsbD_append]
  rw [if_pos (by omega), ← BitVec.getLsbD_eq_getElem]
  congr 1
  omega

/-- A command word is its three fields. -/
theorem cmdWord_fields (w : CmdWord) : cmdWord (cmdOp w) (cmdReg w) (cmdArg w) = w := by
  apply BitVec.eq_of_getLsbD_eq
  intro i hi
  unfold cmdWord cmdOp cmdReg cmdArg
  erw [BitVec.getLsbD_append, BitVec.getLsbD_append]
  simp only [BitVec.getLsbD_extractLsb']
  split
  · simp [*]
  · split <;> (rw [decide_eq_true (by omega), Bool.true_and]; congr 1; omega)

/-- The bits a CMD row of spec/opcode_table.json fixes are the op code in bits 16:14 (R51, R52). -/
theorem cmdWord_fixed (op : BitVec 3) (reg : RegIndex) (arg : Byte) :
    cmdWord op reg arg &&& 0x1C000#17 = op ++ 0#14 := by
  apply BitVec.eq_of_getLsbD_eq
  intro i hi
  unfold cmdWord
  erw [BitVec.getLsbD_and, BitVec.getLsbD_append, BitVec.getLsbD_append, BitVec.getLsbD_append]
  interval_cases i <;> simp

/-- An address byte without the pad bit is its read bit and its index (R53). -/
theorem frame_fields : ∀ a : Byte, framePad a = false →
    (if frameIsRead a then (1#1 ++ frameIndex a ++ 0#1 : Byte) else 0#1 ++ frameIndex a ++ 0#1) = a := by
  decide

end Sys2Proof
end

