-- ==== Sys2Proof/Laws/Memory.lean ====
section
/-! SUPPORT. The reference peer's memory: reads, writes and the canonical form. -/

namespace Sys2Proof.Machine

/-- The canonical form from a higher address on is one from a lower address on. -/
theorem Memory.wfFrom_mono {lo lo' : Nat} (h : lo ≤ lo') :
    ∀ {m : Memory}, Memory.wfFrom lo' m = true → Memory.wfFrom lo m = true
  | [], _ => rfl
  | (k, v) :: rest, hm => by
    simp only [Memory.wfFrom, Bool.and_eq_true, decide_eq_true_eq] at hm ⊢
    exact ⟨⟨⟨by omega, hm.1.1.2⟩, hm.1.2⟩, hm.2⟩

/-- Below its first address a canonical memory reads as unlisted. -/
theorem Memory.read_below {lo a : Nat} (h : a < lo) :
    ∀ {m : Memory}, Memory.wfFrom lo m = true → m.read a = Memory.unlisted
  | [], _ => rfl
  | (k, v) :: rest, hm => by
    simp only [Memory.wfFrom, Bool.and_eq_true, decide_eq_true_eq] at hm
    rw [Memory.read, if_neg (by omega)]
    exact Memory.read_below (by omega) hm.2

theorem Memory.cons_wfFrom {lo a : Nat} (b : Byte) {m : Memory} (hlo : lo ≤ a) (ha : a < 64)
    (hm : Memory.wfFrom (a + 1) m = true) : Memory.wfFrom lo (Memory.cons a b m) = true := by
  unfold Memory.cons
  split
  · exact Memory.wfFrom_mono (by omega) hm
  · simp [Memory.wfFrom, hlo, ha, hm, *]

/-- A write keeps the canonical form. -/
theorem Memory.write_wfFrom {a : Nat} (b : Byte) (ha : a < 64) :
    ∀ {lo : Nat} {m : Memory}, lo ≤ a → Memory.wfFrom lo m = true →
      Memory.wfFrom lo (m.write a b) = true
  | lo, [], hlo, _ => Memory.cons_wfFrom b hlo ha rfl
  | lo, (k, v) :: rest, hlo, hm => by
    simp only [Memory.wfFrom, Bool.and_eq_true, decide_eq_true_eq] at hm
    unfold Memory.write
    split
    · simp only [Memory.wfFrom, Bool.and_eq_true, decide_eq_true_eq]
      exact ⟨hm.1, Memory.write_wfFrom b ha (by omega) hm.2⟩
    · split
      · subst_vars; exact Memory.cons_wfFrom b hlo ha hm.2
      · refine Memory.cons_wfFrom b hlo ha ?_
        simp only [Memory.wfFrom, Bool.and_eq_true, decide_eq_true_eq]
        exact ⟨⟨⟨by omega, hm.1.1.2⟩, hm.1.2⟩, hm.2⟩

theorem Memory.read_cons_self {a : Nat} (b : Byte) {m : Memory} (hm : Memory.wfFrom (a + 1) m = true) :
    (Memory.cons a b m).read a = b := by
  unfold Memory.cons
  split
  · rw [Memory.read_below (by omega) hm]; exact Eq.symm ‹_›
  · simp [Memory.read]

theorem Memory.read_cons_other {a c : Nat} (b : Byte) (m : Memory) (h : c ≠ a) :
    (Memory.cons a b m).read c = m.read c := by
  unfold Memory.cons
  split
  · rfl
  · rw [Memory.read, if_neg (Ne.symm h)]

/-- A read of the address just written gives the byte written. -/
theorem Memory.read_write_self {a : Nat} (b : Byte) :
    ∀ {lo : Nat} {m : Memory}, Memory.wfFrom lo m = true → (m.write a b).read a = b
  | _, [], _ => Memory.read_cons_self b rfl
  | _, (k, v) :: rest, hm => by
    simp only [Memory.wfFrom, Bool.and_eq_true, decide_eq_true_eq] at hm
    unfold Memory.write
    split
    · rw [Memory.read, if_neg (by omega)]
      exact Memory.read_write_self b hm.2
    · split
      · subst_vars; exact Memory.read_cons_self b hm.2
      · refine Memory.read_cons_self b ?_
        simp only [Memory.wfFrom, Bool.and_eq_true, decide_eq_true_eq]
        exact ⟨⟨⟨by omega, hm.1.1.2⟩, hm.1.2⟩, hm.2⟩

/-- A write leaves every other address alone. -/
theorem Memory.read_write_other {a c : Nat} (b : Byte) (h : c ≠ a) :
    ∀ m : Memory, (m.write a b).read c = m.read c
  | [] => Memory.read_cons_other b [] h
  | (k, v) :: rest => by
    unfold Memory.write
    split
    · simp only [Memory.read, Memory.read_write_other b h rest]
    · split
      · subst_vars
        rw [Memory.read_cons_other b rest h, Memory.read, if_neg (Ne.symm h)]
      · rw [Memory.read_cons_other b _ h]

theorem Memory.write_wf {m : Memory} (a : Nat) (b : Byte) (ha : a < 64) (hm : m.wf = true) :
    (m.write a b).wf = true :=
  Memory.write_wfFrom b ha (Nat.zero_le a) hm

end Sys2Proof.Machine
end

