-- ==== Sys2Proof/Laws/State.lean ====
section
/-! SUPPORT. For each named update of the state, what each field is afterwards: the new value of a field it
writes, the old value of every other field. Each is true by definition. -/

namespace Sys2Proof.Machine

/-! ### After `setPhase`: `PHASE <- p` -/

@[simp] theorem State.setPhase_hBus (s : State) (p : Phase) : (s.setPhase p).hBus = s.hBus := rfl
@[simp] theorem State.setPhase_hPort (s : State) (p : Phase) : (s.setPhase p).hPort = s.hPort := rfl
@[simp] theorem State.setPhase_hPin (s : State) (p : Phase) : (s.setPhase p).hPin = s.hPin := rfl
@[simp] theorem State.setPhase_bound (s : State) (p : Phase) : (s.setPhase p).bound = s.bound := rfl
@[simp] theorem State.setPhase_cs (s : State) (p : Phase) : (s.setPhase p).cs = s.cs := rfl
@[simp] theorem State.setPhase_phase (s : State) (p : Phase) : (s.setPhase p).phase = p := rfl
@[simp] theorem State.setPhase_op (s : State) (p : Phase) : (s.setPhase p).op = s.op := rfl
@[simp] theorem State.setPhase_reg (s : State) (p : Phase) : (s.setPhase p).reg = s.reg := rfl
@[simp] theorem State.setPhase_arg (s : State) (p : Phase) : (s.setPhase p).arg = s.arg := rfl
@[simp] theorem State.setPhase_seq (s : State) (p : Phase) : (s.setPhase p).seq = s.seq := rfl
@[simp] theorem State.setPhase_addr (s : State) (p : Phase) : (s.setPhase p).addr = s.addr := rfl
@[simp] theorem State.setPhase_cur (s : State) (p : Phase) : (s.setPhase p).cur = s.cur := rfl
@[simp] theorem State.setPhase_res (s : State) (p : Phase) : (s.setPhase p).res = s.res := rfl
@[simp] theorem State.setPhase_wbuf (s : State) (p : Phase) : (s.setPhase p).wbuf = s.wbuf := rfl
@[simp] theorem State.setPhase_rbuf (s : State) (p : Phase) : (s.setPhase p).rbuf = s.rbuf := rfl
@[simp] theorem State.setPhase_cmds (s : State) (p : Phase) : (s.setPhase p).cmds = s.cmds := rfl
@[simp] theorem State.setPhase_done (s : State) (p : Phase) : (s.setPhase p).done = s.done := rfl
@[simp] theorem State.setPhase_replies (s : State) (p : Phase) : (s.setPhase p).replies = s.replies := rfl
@[simp] theorem State.setPhase_peer (s : State) (p : Phase) : (s.setPhase p).peer = s.peer := rfl
@[simp] theorem State.setPhase_rst (s : State) (p : Phase) : (s.setPhase p).rst = s.rst := rfl
@[simp] theorem State.setPhase_before (s : State) (p : Phase) : (s.setPhase p).before = s.before := rfl
@[simp] theorem State.setPhase_trace (s : State) (p : Phase) : (s.setPhase p).trace = s.trace := rfl
@[simp] theorem State.setPhase_freeIdx (s : State) (p : Phase) : (s.setPhase p).freeIdx = s.freeIdx := rfl

/-! ### After `clearRes`: `RES <- Ok` (R19) -/

@[simp] theorem State.clearRes_hBus (s : State) : (s.clearRes).hBus = s.hBus := rfl
@[simp] theorem State.clearRes_hPort (s : State) : (s.clearRes).hPort = s.hPort := rfl
@[simp] theorem State.clearRes_hPin (s : State) : (s.clearRes).hPin = s.hPin := rfl
@[simp] theorem State.clearRes_bound (s : State) : (s.clearRes).bound = s.bound := rfl
@[simp] theorem State.clearRes_cs (s : State) : (s.clearRes).cs = s.cs := rfl
@[simp] theorem State.clearRes_phase (s : State) : (s.clearRes).phase = s.phase := rfl
@[simp] theorem State.clearRes_op (s : State) : (s.clearRes).op = s.op := rfl
@[simp] theorem State.clearRes_reg (s : State) : (s.clearRes).reg = s.reg := rfl
@[simp] theorem State.clearRes_arg (s : State) : (s.clearRes).arg = s.arg := rfl
@[simp] theorem State.clearRes_seq (s : State) : (s.clearRes).seq = s.seq := rfl
@[simp] theorem State.clearRes_addr (s : State) : (s.clearRes).addr = s.addr := rfl
@[simp] theorem State.clearRes_cur (s : State) : (s.clearRes).cur = s.cur := rfl
@[simp] theorem State.clearRes_res (s : State) : (s.clearRes).res = .ok := rfl
@[simp] theorem State.clearRes_wbuf (s : State) : (s.clearRes).wbuf = s.wbuf := rfl
@[simp] theorem State.clearRes_rbuf (s : State) : (s.clearRes).rbuf = s.rbuf := rfl
@[simp] theorem State.clearRes_cmds (s : State) : (s.clearRes).cmds = s.cmds := rfl
@[simp] theorem State.clearRes_done (s : State) : (s.clearRes).done = s.done := rfl
@[simp] theorem State.clearRes_replies (s : State) : (s.clearRes).replies = s.replies := rfl
@[simp] theorem State.clearRes_peer (s : State) : (s.clearRes).peer = s.peer := rfl
@[simp] theorem State.clearRes_rst (s : State) : (s.clearRes).rst = s.rst := rfl
@[simp] theorem State.clearRes_before (s : State) : (s.clearRes).before = s.before := rfl
@[simp] theorem State.clearRes_trace (s : State) : (s.clearRes).trace = s.trace := rfl
@[simp] theorem State.clearRes_freeIdx (s : State) : (s.clearRes).freeIdx = s.freeIdx := rfl

/-! ### After `raiseTransferError`: `raise TransferError` (R131) -/

@[simp] theorem State.raiseTransferError_hBus (s : State) : (s.raiseTransferError).hBus = s.hBus := rfl
@[simp] theorem State.raiseTransferError_hPort (s : State) : (s.raiseTransferError).hPort = s.hPort := rfl
@[simp] theorem State.raiseTransferError_hPin (s : State) : (s.raiseTransferError).hPin = s.hPin := rfl
@[simp] theorem State.raiseTransferError_bound (s : State) : (s.raiseTransferError).bound = s.bound := rfl
@[simp] theorem State.raiseTransferError_cs (s : State) : (s.raiseTransferError).cs = s.cs := rfl
@[simp] theorem State.raiseTransferError_phase (s : State) : (s.raiseTransferError).phase = s.phase := rfl
@[simp] theorem State.raiseTransferError_op (s : State) : (s.raiseTransferError).op = s.op := rfl
@[simp] theorem State.raiseTransferError_reg (s : State) : (s.raiseTransferError).reg = s.reg := rfl
@[simp] theorem State.raiseTransferError_arg (s : State) : (s.raiseTransferError).arg = s.arg := rfl
@[simp] theorem State.raiseTransferError_seq (s : State) : (s.raiseTransferError).seq = s.seq := rfl
@[simp] theorem State.raiseTransferError_addr (s : State) : (s.raiseTransferError).addr = s.addr := rfl
@[simp] theorem State.raiseTransferError_cur (s : State) : (s.raiseTransferError).cur = s.cur := rfl
@[simp] theorem State.raiseTransferError_res (s : State) : (s.raiseTransferError).res = .transferError := rfl
@[simp] theorem State.raiseTransferError_wbuf (s : State) : (s.raiseTransferError).wbuf = s.wbuf := rfl
@[simp] theorem State.raiseTransferError_rbuf (s : State) : (s.raiseTransferError).rbuf = s.rbuf := rfl
@[simp] theorem State.raiseTransferError_cmds (s : State) : (s.raiseTransferError).cmds = s.cmds := rfl
@[simp] theorem State.raiseTransferError_done (s : State) : (s.raiseTransferError).done = s.done := rfl
@[simp] theorem State.raiseTransferError_replies (s : State) : (s.raiseTransferError).replies = s.replies := rfl
@[simp] theorem State.raiseTransferError_peer (s : State) : (s.raiseTransferError).peer = s.peer := rfl
@[simp] theorem State.raiseTransferError_rst (s : State) : (s.raiseTransferError).rst = s.rst := rfl
@[simp] theorem State.raiseTransferError_before (s : State) : (s.raiseTransferError).before = s.before := rfl
@[simp] theorem State.raiseTransferError_trace (s : State) : (s.raiseTransferError).trace = s.trace := rfl
@[simp] theorem State.raiseTransferError_freeIdx (s : State) : (s.raiseTransferError).freeIdx = s.freeIdx := rfl

/-! ### After `pinSet`: `PinSet(level)` (R80, R81) -/

@[simp] theorem State.pinSet_hBus (s : State) (l : Level) : (s.pinSet l).hBus = s.hBus := rfl
@[simp] theorem State.pinSet_hPort (s : State) (l : Level) : (s.pinSet l).hPort = s.hPort := rfl
@[simp] theorem State.pinSet_hPin (s : State) (l : Level) : (s.pinSet l).hPin = s.hPin := rfl
@[simp] theorem State.pinSet_bound (s : State) (l : Level) : (s.pinSet l).bound = s.bound := rfl
@[simp] theorem State.pinSet_cs (s : State) (l : Level) : (s.pinSet l).cs = l := rfl
@[simp] theorem State.pinSet_phase (s : State) (l : Level) : (s.pinSet l).phase = s.phase := rfl
@[simp] theorem State.pinSet_op (s : State) (l : Level) : (s.pinSet l).op = s.op := rfl
@[simp] theorem State.pinSet_reg (s : State) (l : Level) : (s.pinSet l).reg = s.reg := rfl
@[simp] theorem State.pinSet_arg (s : State) (l : Level) : (s.pinSet l).arg = s.arg := rfl
@[simp] theorem State.pinSet_seq (s : State) (l : Level) : (s.pinSet l).seq = s.seq := rfl
@[simp] theorem State.pinSet_addr (s : State) (l : Level) : (s.pinSet l).addr = s.addr := rfl
@[simp] theorem State.pinSet_cur (s : State) (l : Level) : (s.pinSet l).cur = s.cur := rfl
@[simp] theorem State.pinSet_res (s : State) (l : Level) : (s.pinSet l).res = s.res := rfl
@[simp] theorem State.pinSet_wbuf (s : State) (l : Level) : (s.pinSet l).wbuf = s.wbuf := rfl
@[simp] theorem State.pinSet_rbuf (s : State) (l : Level) : (s.pinSet l).rbuf = s.rbuf := rfl
@[simp] theorem State.pinSet_cmds (s : State) (l : Level) : (s.pinSet l).cmds = s.cmds := rfl
@[simp] theorem State.pinSet_done (s : State) (l : Level) : (s.pinSet l).done = s.done := rfl
@[simp] theorem State.pinSet_replies (s : State) (l : Level) : (s.pinSet l).replies = s.replies := rfl
@[simp] theorem State.pinSet_peer (s : State) (l : Level) : (s.pinSet l).peer = s.peer.onPin l := rfl
@[simp] theorem State.pinSet_rst (s : State) (l : Level) : (s.pinSet l).rst = s.rst := rfl
@[simp] theorem State.pinSet_before (s : State) (l : Level) : (s.pinSet l).before = s.before := rfl
@[simp] theorem State.pinSet_trace (s : State) (l : Level) : (s.pinSet l).trace = s.trace ++ [.pin s.hPort s.hPin l] := rfl
@[simp] theorem State.pinSet_freeIdx (s : State) (l : Level) : (s.pinSet l).freeIdx = s.freeIdx := rfl

/-! ### After `answerWith`: an answered request (R7) -/

@[simp] theorem State.answerWith_hBus (s : State) (q : Request) (a : Answer) : (s.answerWith q a).hBus = s.hBus := rfl
@[simp] theorem State.answerWith_hPort (s : State) (q : Request) (a : Answer) : (s.answerWith q a).hPort = s.hPort := rfl
@[simp] theorem State.answerWith_hPin (s : State) (q : Request) (a : Answer) : (s.answerWith q a).hPin = s.hPin := rfl
@[simp] theorem State.answerWith_bound (s : State) (q : Request) (a : Answer) : (s.answerWith q a).bound = s.bound := rfl
@[simp] theorem State.answerWith_cs (s : State) (q : Request) (a : Answer) : (s.answerWith q a).cs = s.cs := rfl
@[simp] theorem State.answerWith_phase (s : State) (q : Request) (a : Answer) : (s.answerWith q a).phase = s.phase := rfl
@[simp] theorem State.answerWith_op (s : State) (q : Request) (a : Answer) : (s.answerWith q a).op = s.op := rfl
@[simp] theorem State.answerWith_reg (s : State) (q : Request) (a : Answer) : (s.answerWith q a).reg = s.reg := rfl
@[simp] theorem State.answerWith_arg (s : State) (q : Request) (a : Answer) : (s.answerWith q a).arg = s.arg := rfl
@[simp] theorem State.answerWith_seq (s : State) (q : Request) (a : Answer) : (s.answerWith q a).seq = s.seq := rfl
@[simp] theorem State.answerWith_addr (s : State) (q : Request) (a : Answer) : (s.answerWith q a).addr = s.addr := rfl
@[simp] theorem State.answerWith_cur (s : State) (q : Request) (a : Answer) : (s.answerWith q a).cur = s.cur := rfl
@[simp] theorem State.answerWith_res (s : State) (q : Request) (a : Answer) : (s.answerWith q a).res = s.res := rfl
@[simp] theorem State.answerWith_wbuf (s : State) (q : Request) (a : Answer) : (s.answerWith q a).wbuf = s.wbuf := rfl
@[simp] theorem State.answerWith_rbuf (s : State) (q : Request) (a : Answer) : (s.answerWith q a).rbuf = s.rbuf := rfl
@[simp] theorem State.answerWith_cmds (s : State) (q : Request) (a : Answer) : (s.answerWith q a).cmds = s.cmds := rfl
@[simp] theorem State.answerWith_done (s : State) (q : Request) (a : Answer) : (s.answerWith q a).done = s.done := rfl
@[simp] theorem State.answerWith_replies (s : State) (q : Request) (a : Answer) : (s.answerWith q a).replies = s.replies.tail := rfl
@[simp] theorem State.answerWith_peer (s : State) (q : Request) (a : Answer) : (s.answerWith q a).peer = s.peer := rfl
@[simp] theorem State.answerWith_rst (s : State) (q : Request) (a : Answer) : (s.answerWith q a).rst = s.rst := rfl
@[simp] theorem State.answerWith_before (s : State) (q : Request) (a : Answer) : (s.answerWith q a).before = s.before := rfl
@[simp] theorem State.answerWith_trace (s : State) (q : Request) (a : Answer) : (s.answerWith q a).trace = s.trace ++ [q.event s.hBus (some a)] := rfl
@[simp] theorem State.answerWith_freeIdx (s : State) (q : Request) (a : Answer) : (s.answerWith q a).freeIdx = s.freeIdx := rfl

/-! ### After `accept`: command acceptance (R56) -/

@[simp] theorem State.accept_hBus (s : State) (o : Op) (r : RegIndex) (a : Byte) : (s.accept o r a).hBus = s.hBus := rfl
@[simp] theorem State.accept_hPort (s : State) (o : Op) (r : RegIndex) (a : Byte) : (s.accept o r a).hPort = s.hPort := rfl
@[simp] theorem State.accept_hPin (s : State) (o : Op) (r : RegIndex) (a : Byte) : (s.accept o r a).hPin = s.hPin := rfl
@[simp] theorem State.accept_bound (s : State) (o : Op) (r : RegIndex) (a : Byte) : (s.accept o r a).bound = s.bound := rfl
@[simp] theorem State.accept_cs (s : State) (o : Op) (r : RegIndex) (a : Byte) : (s.accept o r a).cs = s.cs := rfl
@[simp] theorem State.accept_phase (s : State) (o : Op) (r : RegIndex) (a : Byte) : (s.accept o r a).phase = .tSel := rfl
@[simp] theorem State.accept_op (s : State) (o : Op) (r : RegIndex) (a : Byte) : (s.accept o r a).op = o := rfl
@[simp] theorem State.accept_reg (s : State) (o : Op) (r : RegIndex) (a : Byte) : (s.accept o r a).reg = r := rfl
@[simp] theorem State.accept_arg (s : State) (o : Op) (r : RegIndex) (a : Byte) : (s.accept o r a).arg = a := rfl
@[simp] theorem State.accept_seq (s : State) (o : Op) (r : RegIndex) (a : Byte) : (s.accept o r a).seq = 0#4 := rfl
@[simp] theorem State.accept_addr (s : State) (o : Op) (r : RegIndex) (a : Byte) : (s.accept o r a).addr = s.addr := rfl
@[simp] theorem State.accept_cur (s : State) (o : Op) (r : RegIndex) (a : Byte) : (s.accept o r a).cur = s.cur := rfl
@[simp] theorem State.accept_res (s : State) (o : Op) (r : RegIndex) (a : Byte) : (s.accept o r a).res = .ok := rfl
@[simp] theorem State.accept_wbuf (s : State) (o : Op) (r : RegIndex) (a : Byte) : (s.accept o r a).wbuf = s.wbuf := rfl
@[simp] theorem State.accept_rbuf (s : State) (o : Op) (r : RegIndex) (a : Byte) : (s.accept o r a).rbuf = s.rbuf := rfl
@[simp] theorem State.accept_cmds (s : State) (o : Op) (r : RegIndex) (a : Byte) : (s.accept o r a).cmds = s.cmds := rfl
@[simp] theorem State.accept_done (s : State) (o : Op) (r : RegIndex) (a : Byte) : (s.accept o r a).done = s.done := rfl
@[simp] theorem State.accept_replies (s : State) (o : Op) (r : RegIndex) (a : Byte) : (s.accept o r a).replies = s.replies := rfl
@[simp] theorem State.accept_peer (s : State) (o : Op) (r : RegIndex) (a : Byte) : (s.accept o r a).peer = s.peer := rfl
@[simp] theorem State.accept_rst (s : State) (o : Op) (r : RegIndex) (a : Byte) : (s.accept o r a).rst = s.rst := rfl
@[simp] theorem State.accept_before (s : State) (o : Op) (r : RegIndex) (a : Byte) : (s.accept o r a).before = s.before := rfl
@[simp] theorem State.accept_trace (s : State) (o : Op) (r : RegIndex) (a : Byte) : (s.accept o r a).trace = s.trace := rfl
@[simp] theorem State.accept_freeIdx (s : State) (o : Op) (r : RegIndex) (a : Byte) : (s.accept o r a).freeIdx = s.freeIdx := rfl

/-! ### After `bind`: the bind of `init` (R114) -/

@[simp] theorem State.bind_hBus (s : State) (b : BusRef) (p : PortRef) (n : PinRef) : (s.bind b p n).hBus = b := rfl
@[simp] theorem State.bind_hPort (s : State) (b : BusRef) (p : PortRef) (n : PinRef) : (s.bind b p n).hPort = p := rfl
@[simp] theorem State.bind_hPin (s : State) (b : BusRef) (p : PortRef) (n : PinRef) : (s.bind b p n).hPin = n := rfl
@[simp] theorem State.bind_bound (s : State) (b : BusRef) (p : PortRef) (n : PinRef) : (s.bind b p n).bound = true := rfl
@[simp] theorem State.bind_cs (s : State) (b : BusRef) (p : PortRef) (n : PinRef) : (s.bind b p n).cs = s.cs := rfl
@[simp] theorem State.bind_phase (s : State) (b : BusRef) (p : PortRef) (n : PinRef) : (s.bind b p n).phase = s.phase := rfl
@[simp] theorem State.bind_op (s : State) (b : BusRef) (p : PortRef) (n : PinRef) : (s.bind b p n).op = s.op := rfl
@[simp] theorem State.bind_reg (s : State) (b : BusRef) (p : PortRef) (n : PinRef) : (s.bind b p n).reg = s.reg := rfl
@[simp] theorem State.bind_arg (s : State) (b : BusRef) (p : PortRef) (n : PinRef) : (s.bind b p n).arg = s.arg := rfl
@[simp] theorem State.bind_seq (s : State) (b : BusRef) (p : PortRef) (n : PinRef) : (s.bind b p n).seq = s.seq := rfl
@[simp] theorem State.bind_addr (s : State) (b : BusRef) (p : PortRef) (n : PinRef) : (s.bind b p n).addr = s.addr := rfl
@[simp] theorem State.bind_cur (s : State) (b : BusRef) (p : PortRef) (n : PinRef) : (s.bind b p n).cur = s.cur := rfl
@[simp] theorem State.bind_res (s : State) (b : BusRef) (p : PortRef) (n : PinRef) : (s.bind b p n).res = s.res := rfl
@[simp] theorem State.bind_wbuf (s : State) (b : BusRef) (p : PortRef) (n : PinRef) : (s.bind b p n).wbuf = s.wbuf := rfl
@[simp] theorem State.bind_rbuf (s : State) (b : BusRef) (p : PortRef) (n : PinRef) : (s.bind b p n).rbuf = s.rbuf := rfl
@[simp] theorem State.bind_cmds (s : State) (b : BusRef) (p : PortRef) (n : PinRef) : (s.bind b p n).cmds = s.cmds := rfl
@[simp] theorem State.bind_done (s : State) (b : BusRef) (p : PortRef) (n : PinRef) : (s.bind b p n).done = s.done := rfl
@[simp] theorem State.bind_replies (s : State) (b : BusRef) (p : PortRef) (n : PinRef) : (s.bind b p n).replies = s.replies := rfl
@[simp] theorem State.bind_peer (s : State) (b : BusRef) (p : PortRef) (n : PinRef) : (s.bind b p n).peer = s.peer := rfl
@[simp] theorem State.bind_rst (s : State) (b : BusRef) (p : PortRef) (n : PinRef) : (s.bind b p n).rst = s.rst := rfl
@[simp] theorem State.bind_before (s : State) (b : BusRef) (p : PortRef) (n : PinRef) : (s.bind b p n).before = s.before := rfl
@[simp] theorem State.bind_trace (s : State) (b : BusRef) (p : PortRef) (n : PinRef) : (s.bind b p n).trace = s.trace := rfl
@[simp] theorem State.bind_freeIdx (s : State) (b : BusRef) (p : PortRef) (n : PinRef) : (s.bind b p n).freeIdx = s.freeIdx := rfl

/-! ### After `clobberRbuf`: RBUF undetermined (R92) -/

@[simp] theorem State.clobberRbuf_hBus (s : State) (n : Nat) : (s.clobberRbuf n).hBus = s.hBus := rfl
@[simp] theorem State.clobberRbuf_hPort (s : State) (n : Nat) : (s.clobberRbuf n).hPort = s.hPort := rfl
@[simp] theorem State.clobberRbuf_hPin (s : State) (n : Nat) : (s.clobberRbuf n).hPin = s.hPin := rfl
@[simp] theorem State.clobberRbuf_bound (s : State) (n : Nat) : (s.clobberRbuf n).bound = s.bound := rfl
@[simp] theorem State.clobberRbuf_cs (s : State) (n : Nat) : (s.clobberRbuf n).cs = s.cs := rfl
@[simp] theorem State.clobberRbuf_phase (s : State) (n : Nat) : (s.clobberRbuf n).phase = s.phase := rfl
@[simp] theorem State.clobberRbuf_op (s : State) (n : Nat) : (s.clobberRbuf n).op = s.op := rfl
@[simp] theorem State.clobberRbuf_reg (s : State) (n : Nat) : (s.clobberRbuf n).reg = s.reg := rfl
@[simp] theorem State.clobberRbuf_arg (s : State) (n : Nat) : (s.clobberRbuf n).arg = s.arg := rfl
@[simp] theorem State.clobberRbuf_seq (s : State) (n : Nat) : (s.clobberRbuf n).seq = s.seq := rfl
@[simp] theorem State.clobberRbuf_addr (s : State) (n : Nat) : (s.clobberRbuf n).addr = s.addr := rfl
@[simp] theorem State.clobberRbuf_cur (s : State) (n : Nat) : (s.clobberRbuf n).cur = s.cur := rfl
@[simp] theorem State.clobberRbuf_res (s : State) (n : Nat) : (s.clobberRbuf n).res = s.res := rfl
@[simp] theorem State.clobberRbuf_wbuf (s : State) (n : Nat) : (s.clobberRbuf n).wbuf = s.wbuf := rfl
@[simp] theorem State.clobberRbuf_rbuf (s : State) (n : Nat) : (s.clobberRbuf n).rbuf = freeBytes s.freeIdx n := rfl
@[simp] theorem State.clobberRbuf_cmds (s : State) (n : Nat) : (s.clobberRbuf n).cmds = s.cmds := rfl
@[simp] theorem State.clobberRbuf_done (s : State) (n : Nat) : (s.clobberRbuf n).done = s.done := rfl
@[simp] theorem State.clobberRbuf_replies (s : State) (n : Nat) : (s.clobberRbuf n).replies = s.replies := rfl
@[simp] theorem State.clobberRbuf_peer (s : State) (n : Nat) : (s.clobberRbuf n).peer = s.peer := rfl
@[simp] theorem State.clobberRbuf_rst (s : State) (n : Nat) : (s.clobberRbuf n).rst = s.rst := rfl
@[simp] theorem State.clobberRbuf_before (s : State) (n : Nat) : (s.clobberRbuf n).before = s.before := rfl
@[simp] theorem State.clobberRbuf_trace (s : State) (n : Nat) : (s.clobberRbuf n).trace = s.trace := rfl
@[simp] theorem State.clobberRbuf_freeIdx (s : State) (n : Nat) : (s.clobberRbuf n).freeIdx = s.freeIdx + n := rfl

/-! ### After `openSlot`: the start of a slot (R96, row T_SEL) -/

@[simp] theorem State.openSlot_hBus (s : State) (sl : Slot) : (s.openSlot sl).hBus = s.hBus := rfl
@[simp] theorem State.openSlot_hPort (s : State) (sl : Slot) : (s.openSlot sl).hPort = s.hPort := rfl
@[simp] theorem State.openSlot_hPin (s : State) (sl : Slot) : (s.openSlot sl).hPin = s.hPin := rfl
@[simp] theorem State.openSlot_bound (s : State) (sl : Slot) : (s.openSlot sl).bound = s.bound := rfl
@[simp] theorem State.openSlot_cs (s : State) (sl : Slot) : (s.openSlot sl).cs = s.cs := rfl
@[simp] theorem State.openSlot_phase (s : State) (sl : Slot) : (s.openSlot sl).phase = s.phase := rfl
@[simp] theorem State.openSlot_op (s : State) (sl : Slot) : (s.openSlot sl).op = s.op := rfl
@[simp] theorem State.openSlot_reg (s : State) (sl : Slot) : (s.openSlot sl).reg = s.reg := rfl
@[simp] theorem State.openSlot_arg (s : State) (sl : Slot) : (s.openSlot sl).arg = s.arg := rfl
@[simp] theorem State.openSlot_seq (s : State) (sl : Slot) : (s.openSlot sl).seq = s.seq := rfl
@[simp] theorem State.openSlot_addr (s : State) (sl : Slot) : (s.openSlot sl).addr = sl.addressByte := rfl
@[simp] theorem State.openSlot_cur (s : State) (sl : Slot) : (s.openSlot sl).cur = s.cur := rfl
@[simp] theorem State.openSlot_res (s : State) (sl : Slot) : (s.openSlot sl).res = .ok := rfl
@[simp] theorem State.openSlot_wbuf (s : State) (sl : Slot) : (s.openSlot sl).wbuf = s.wbuf := rfl
@[simp] theorem State.openSlot_rbuf (s : State) (sl : Slot) : (s.openSlot sl).rbuf = s.rbuf := rfl
@[simp] theorem State.openSlot_cmds (s : State) (sl : Slot) : (s.openSlot sl).cmds = s.cmds := rfl
@[simp] theorem State.openSlot_done (s : State) (sl : Slot) : (s.openSlot sl).done = s.done := rfl
@[simp] theorem State.openSlot_replies (s : State) (sl : Slot) : (s.openSlot sl).replies = s.replies := rfl
@[simp] theorem State.openSlot_peer (s : State) (sl : Slot) : (s.openSlot sl).peer = s.peer := rfl
@[simp] theorem State.openSlot_rst (s : State) (sl : Slot) : (s.openSlot sl).rst = s.rst := rfl
@[simp] theorem State.openSlot_before (s : State) (sl : Slot) : (s.openSlot sl).before = s.before := rfl
@[simp] theorem State.openSlot_trace (s : State) (sl : Slot) : (s.openSlot sl).trace = s.trace := rfl
@[simp] theorem State.openSlot_freeIdx (s : State) (sl : Slot) : (s.openSlot sl).freeIdx = s.freeIdx := rfl

/-! ### After `afterRst`: the step's entry of `rst` used up -/

@[simp] theorem State.afterRst_hBus (s : State) : (s.afterRst).hBus = s.hBus := rfl
@[simp] theorem State.afterRst_hPort (s : State) : (s.afterRst).hPort = s.hPort := rfl
@[simp] theorem State.afterRst_hPin (s : State) : (s.afterRst).hPin = s.hPin := rfl
@[simp] theorem State.afterRst_bound (s : State) : (s.afterRst).bound = s.bound := rfl
@[simp] theorem State.afterRst_cs (s : State) : (s.afterRst).cs = s.cs := rfl
@[simp] theorem State.afterRst_phase (s : State) : (s.afterRst).phase = s.phase := rfl
@[simp] theorem State.afterRst_op (s : State) : (s.afterRst).op = s.op := rfl
@[simp] theorem State.afterRst_reg (s : State) : (s.afterRst).reg = s.reg := rfl
@[simp] theorem State.afterRst_arg (s : State) : (s.afterRst).arg = s.arg := rfl
@[simp] theorem State.afterRst_seq (s : State) : (s.afterRst).seq = s.seq := rfl
@[simp] theorem State.afterRst_addr (s : State) : (s.afterRst).addr = s.addr := rfl
@[simp] theorem State.afterRst_cur (s : State) : (s.afterRst).cur = s.cur := rfl
@[simp] theorem State.afterRst_res (s : State) : (s.afterRst).res = s.res := rfl
@[simp] theorem State.afterRst_wbuf (s : State) : (s.afterRst).wbuf = s.wbuf := rfl
@[simp] theorem State.afterRst_rbuf (s : State) : (s.afterRst).rbuf = s.rbuf := rfl
@[simp] theorem State.afterRst_cmds (s : State) : (s.afterRst).cmds = s.cmds := rfl
@[simp] theorem State.afterRst_done (s : State) : (s.afterRst).done = s.done := rfl
@[simp] theorem State.afterRst_replies (s : State) : (s.afterRst).replies = s.replies := rfl
@[simp] theorem State.afterRst_peer (s : State) : (s.afterRst).peer = s.peer := rfl
@[simp] theorem State.afterRst_rst (s : State) : (s.afterRst).rst = s.rst.tail := rfl
@[simp] theorem State.afterRst_before (s : State) : (s.afterRst).before = s.before := rfl
@[simp] theorem State.afterRst_trace (s : State) : (s.afterRst).trace = s.trace := rfl
@[simp] theorem State.afterRst_freeIdx (s : State) : (s.afterRst).freeIdx = s.freeIdx := rfl

/-! ### After `complete`: completion (R57) -/

@[simp] theorem State.complete_hBus (s : State) : (s.complete).hBus = s.hBus := rfl
@[simp] theorem State.complete_hPort (s : State) : (s.complete).hPort = s.hPort := rfl
@[simp] theorem State.complete_hPin (s : State) : (s.complete).hPin = s.hPin := rfl
@[simp] theorem State.complete_bound (s : State) : (s.complete).bound = s.bound := rfl
@[simp] theorem State.complete_cs (s : State) : (s.complete).cs = s.cs := rfl
@[simp] theorem State.complete_phase (s : State) : (s.complete).phase = .idle := rfl
@[simp] theorem State.complete_op (s : State) : (s.complete).op = s.op := rfl
@[simp] theorem State.complete_reg (s : State) : (s.complete).reg = s.reg := rfl
@[simp] theorem State.complete_arg (s : State) : (s.complete).arg = s.arg := rfl
@[simp] theorem State.complete_seq (s : State) : (s.complete).seq = s.seq := rfl
@[simp] theorem State.complete_addr (s : State) : (s.complete).addr = s.addr := rfl
@[simp] theorem State.complete_cur (s : State) : (s.complete).cur = s.cur := rfl
@[simp] theorem State.complete_res (s : State) : (s.complete).res = finalRes s.op s.res := rfl
@[simp] theorem State.complete_wbuf (s : State) : (s.complete).wbuf = s.wbuf := rfl
@[simp] theorem State.complete_rbuf (s : State) : (s.complete).rbuf = s.rbuf := rfl
@[simp] theorem State.complete_cmds (s : State) : (s.complete).cmds = s.cmds := rfl
@[simp] theorem State.complete_done (s : State) : (s.complete).done = s.done ++ [s.completion] := rfl
@[simp] theorem State.complete_replies (s : State) : (s.complete).replies = s.replies := rfl
@[simp] theorem State.complete_peer (s : State) : (s.complete).peer = s.peer := rfl
@[simp] theorem State.complete_rst (s : State) : (s.complete).rst = s.rst := rfl
@[simp] theorem State.complete_before (s : State) : (s.complete).before = s.before := rfl
@[simp] theorem State.complete_trace (s : State) : (s.complete).trace = s.trace := rfl
@[simp] theorem State.complete_freeIdx (s : State) : (s.complete).freeIdx = s.freeIdx := rfl

/-! ### After `hardReset`: hardware reset (R27, R151) -/

@[simp] theorem State.hardReset_hBus (s : State) : (s.hardReset).hBus = ⟨0⟩ := rfl
@[simp] theorem State.hardReset_hPort (s : State) : (s.hardReset).hPort = ⟨0⟩ := rfl
@[simp] theorem State.hardReset_hPin (s : State) : (s.hardReset).hPin = ⟨0⟩ := rfl
@[simp] theorem State.hardReset_bound (s : State) : (s.hardReset).bound = false := rfl
@[simp] theorem State.hardReset_cs (s : State) : (s.hardReset).cs = 1#1 := rfl
@[simp] theorem State.hardReset_phase (s : State) : (s.hardReset).phase = .idle := rfl
@[simp] theorem State.hardReset_op (s : State) : (s.hardReset).op = .init := rfl
@[simp] theorem State.hardReset_reg (s : State) : (s.hardReset).reg = 0#6 := rfl
@[simp] theorem State.hardReset_arg (s : State) : (s.hardReset).arg = 0#8 := rfl
@[simp] theorem State.hardReset_seq (s : State) : (s.hardReset).seq = 0#4 := rfl
@[simp] theorem State.hardReset_addr (s : State) : (s.hardReset).addr = 0#8 := rfl
@[simp] theorem State.hardReset_cur (s : State) : (s.hardReset).cur = 0#8 := rfl
@[simp] theorem State.hardReset_res (s : State) : (s.hardReset).res = .ok := rfl
@[simp] theorem State.hardReset_wbuf (s : State) : (s.hardReset).wbuf = s.wbuf := rfl
@[simp] theorem State.hardReset_rbuf (s : State) : (s.hardReset).rbuf = s.rbuf := rfl
@[simp] theorem State.hardReset_cmds (s : State) : (s.hardReset).cmds = s.cmds := rfl
@[simp] theorem State.hardReset_done (s : State) : (s.hardReset).done = s.done := rfl
@[simp] theorem State.hardReset_replies (s : State) : (s.hardReset).replies = s.repliesAfterReset := rfl
@[simp] theorem State.hardReset_peer (s : State) : (s.hardReset).peer = s.peer := rfl
@[simp] theorem State.hardReset_rst (s : State) : (s.hardReset).rst = s.rst := rfl
@[simp] theorem State.hardReset_before (s : State) : (s.hardReset).before = s.before ++ s.events := rfl
@[simp] theorem State.hardReset_trace (s : State) : (s.hardReset).trace = [] := rfl
@[simp] theorem State.hardReset_freeIdx (s : State) : (s.hardReset).freeIdx = s.freeIdx := rfl

/-! ### After `deliver`: received bytes at their destination (R96) -/

@[simp] theorem State.deliver_hBus (s : State) (d : Dest) (b : List Byte) : (s.deliver d b).hBus = s.hBus := by
  cases d <;> cases b <;> rfl
@[simp] theorem State.deliver_hPort (s : State) (d : Dest) (b : List Byte) : (s.deliver d b).hPort = s.hPort := by
  cases d <;> cases b <;> rfl
@[simp] theorem State.deliver_hPin (s : State) (d : Dest) (b : List Byte) : (s.deliver d b).hPin = s.hPin := by
  cases d <;> cases b <;> rfl
@[simp] theorem State.deliver_bound (s : State) (d : Dest) (b : List Byte) : (s.deliver d b).bound = s.bound := by
  cases d <;> cases b <;> rfl
@[simp] theorem State.deliver_cs (s : State) (d : Dest) (b : List Byte) : (s.deliver d b).cs = s.cs := by
  cases d <;> cases b <;> rfl
@[simp] theorem State.deliver_phase (s : State) (d : Dest) (b : List Byte) : (s.deliver d b).phase = s.phase := by
  cases d <;> cases b <;> rfl
@[simp] theorem State.deliver_op (s : State) (d : Dest) (b : List Byte) : (s.deliver d b).op = s.op := by
  cases d <;> cases b <;> rfl
@[simp] theorem State.deliver_reg (s : State) (d : Dest) (b : List Byte) : (s.deliver d b).reg = s.reg := by
  cases d <;> cases b <;> rfl
@[simp] theorem State.deliver_arg (s : State) (d : Dest) (b : List Byte) : (s.deliver d b).arg = s.arg := by
  cases d <;> cases b <;> rfl
@[simp] theorem State.deliver_seq (s : State) (d : Dest) (b : List Byte) : (s.deliver d b).seq = s.seq := by
  cases d <;> cases b <;> rfl
@[simp] theorem State.deliver_addr (s : State) (d : Dest) (b : List Byte) : (s.deliver d b).addr = s.addr := by
  cases d <;> cases b <;> rfl
@[simp] theorem State.deliver_res (s : State) (d : Dest) (b : List Byte) : (s.deliver d b).res = s.res := by
  cases d <;> cases b <;> rfl
@[simp] theorem State.deliver_wbuf (s : State) (d : Dest) (b : List Byte) : (s.deliver d b).wbuf = s.wbuf := by
  cases d <;> cases b <;> rfl
@[simp] theorem State.deliver_cmds (s : State) (d : Dest) (b : List Byte) : (s.deliver d b).cmds = s.cmds := by
  cases d <;> cases b <;> rfl
@[simp] theorem State.deliver_done (s : State) (d : Dest) (b : List Byte) : (s.deliver d b).done = s.done := by
  cases d <;> cases b <;> rfl
@[simp] theorem State.deliver_replies (s : State) (d : Dest) (b : List Byte) : (s.deliver d b).replies = s.replies := by
  cases d <;> cases b <;> rfl
@[simp] theorem State.deliver_peer (s : State) (d : Dest) (b : List Byte) : (s.deliver d b).peer = s.peer := by
  cases d <;> cases b <;> rfl
@[simp] theorem State.deliver_rst (s : State) (d : Dest) (b : List Byte) : (s.deliver d b).rst = s.rst := by
  cases d <;> cases b <;> rfl
@[simp] theorem State.deliver_before (s : State) (d : Dest) (b : List Byte) : (s.deliver d b).before = s.before := by
  cases d <;> cases b <;> rfl
@[simp] theorem State.deliver_trace (s : State) (d : Dest) (b : List Byte) : (s.deliver d b).trace = s.trace := by
  cases d <;> cases b <;> rfl
@[simp] theorem State.deliver_freeIdx (s : State) (d : Dest) (b : List Byte) : (s.deliver d b).freeIdx = s.freeIdx := by
  cases d <;> cases b <;> rfl

/-! ### After `spoil`: a failed receive (R92) -/

@[simp] theorem State.spoil_hBus (s : State) (sl : Slot) : (s.spoil sl).hBus = s.hBus := by
  unfold State.spoil; cases sl.dest <;> rfl
@[simp] theorem State.spoil_hPort (s : State) (sl : Slot) : (s.spoil sl).hPort = s.hPort := by
  unfold State.spoil; cases sl.dest <;> rfl
@[simp] theorem State.spoil_hPin (s : State) (sl : Slot) : (s.spoil sl).hPin = s.hPin := by
  unfold State.spoil; cases sl.dest <;> rfl
@[simp] theorem State.spoil_bound (s : State) (sl : Slot) : (s.spoil sl).bound = s.bound := by
  unfold State.spoil; cases sl.dest <;> rfl
@[simp] theorem State.spoil_cs (s : State) (sl : Slot) : (s.spoil sl).cs = s.cs := by
  unfold State.spoil; cases sl.dest <;> rfl
@[simp] theorem State.spoil_phase (s : State) (sl : Slot) : (s.spoil sl).phase = s.phase := by
  unfold State.spoil; cases sl.dest <;> rfl
@[simp] theorem State.spoil_op (s : State) (sl : Slot) : (s.spoil sl).op = s.op := by
  unfold State.spoil; cases sl.dest <;> rfl
@[simp] theorem State.spoil_reg (s : State) (sl : Slot) : (s.spoil sl).reg = s.reg := by
  unfold State.spoil; cases sl.dest <;> rfl
@[simp] theorem State.spoil_arg (s : State) (sl : Slot) : (s.spoil sl).arg = s.arg := by
  unfold State.spoil; cases sl.dest <;> rfl
@[simp] theorem State.spoil_seq (s : State) (sl : Slot) : (s.spoil sl).seq = s.seq := by
  unfold State.spoil; cases sl.dest <;> rfl
@[simp] theorem State.spoil_addr (s : State) (sl : Slot) : (s.spoil sl).addr = s.addr := by
  unfold State.spoil; cases sl.dest <;> rfl
@[simp] theorem State.spoil_cur (s : State) (sl : Slot) : (s.spoil sl).cur = s.cur := by
  unfold State.spoil; cases sl.dest <;> rfl
@[simp] theorem State.spoil_res (s : State) (sl : Slot) : (s.spoil sl).res = s.res := by
  unfold State.spoil; cases sl.dest <;> rfl
@[simp] theorem State.spoil_wbuf (s : State) (sl : Slot) : (s.spoil sl).wbuf = s.wbuf := by
  unfold State.spoil; cases sl.dest <;> rfl
@[simp] theorem State.spoil_cmds (s : State) (sl : Slot) : (s.spoil sl).cmds = s.cmds := by
  unfold State.spoil; cases sl.dest <;> rfl
@[simp] theorem State.spoil_done (s : State) (sl : Slot) : (s.spoil sl).done = s.done := by
  unfold State.spoil; cases sl.dest <;> rfl
@[simp] theorem State.spoil_replies (s : State) (sl : Slot) : (s.spoil sl).replies = s.replies := by
  unfold State.spoil; cases sl.dest <;> rfl
@[simp] theorem State.spoil_peer (s : State) (sl : Slot) : (s.spoil sl).peer = s.peer := by
  unfold State.spoil; cases sl.dest <;> rfl
@[simp] theorem State.spoil_rst (s : State) (sl : Slot) : (s.spoil sl).rst = s.rst := by
  unfold State.spoil; cases sl.dest <;> rfl
@[simp] theorem State.spoil_before (s : State) (sl : Slot) : (s.spoil sl).before = s.before := by
  unfold State.spoil; cases sl.dest <;> rfl
@[simp] theorem State.spoil_trace (s : State) (sl : Slot) : (s.spoil sl).trace = s.trace := by
  unfold State.spoil; cases sl.dest <;> rfl

/-! ### What the slot list reads: OP, SEQ, REG, ARG, CUR and WBUF alone (R96) -/

@[simp] theorem State.setPhase_slot (s : State) (p : Phase) : (s.setPhase p).slot = s.slot := rfl
@[simp] theorem State.clearRes_slot (s : State) : (s.clearRes).slot = s.slot := rfl
@[simp] theorem State.raiseTransferError_slot (s : State) : (s.raiseTransferError).slot = s.slot := rfl
@[simp] theorem State.pinSet_slot (s : State) (l : Level) : (s.pinSet l).slot = s.slot := rfl
@[simp] theorem State.answerWith_slot (s : State) (q : Request) (a : Answer) : (s.answerWith q a).slot = s.slot := rfl
@[simp] theorem State.bind_slot (s : State) (b : BusRef) (p : PortRef) (n : PinRef) : (s.bind b p n).slot = s.slot := rfl
@[simp] theorem State.clobberRbuf_slot (s : State) (n : Nat) : (s.clobberRbuf n).slot = s.slot := rfl
@[simp] theorem State.openSlot_slot (s : State) (sl : Slot) : (s.openSlot sl).slot = s.slot := rfl
@[simp] theorem State.afterRst_slot (s : State) : (s.afterRst).slot = s.slot := rfl
@[simp] theorem State.complete_slot (s : State) : (s.complete).slot = s.slot := rfl

end Sys2Proof.Machine
end

