-- ==== Sys2Proof/Laws/Step.lean ====
section
/-! SUPPORT. The step, row by row of R96, and runs of several steps. Later proofs cite these equations and
do not unfold the step again. -/

namespace Sys2Proof.Machine

@[simp] theorem run_zero (s : State) : run 0 s = .next s := rfl

/-- A run that begins with this step. -/
theorem run_succ {s t : State} (k : Nat) (h : step s = .next t) : run (k + 1) s = run k t := by
  simp only [run, h]

/-- A run that begins with this run. -/
theorem run_add {j : Nat} (k : Nat) : ∀ {s t : State}, run j s = .next t → run (j + k) s = run k t := by
  induction j with
  | zero => intro s t h; cases h; rw [Nat.zero_add]
  | succ j ih =>
    intro s t h
    rw [Nat.succ_add]
    simp only [run] at h ⊢
    split at h
    · exact ih h
    · cases h
    · cases h

/-- Where `rst` is not asserted any more, using up its entry changes nothing. -/
theorem State.afterRst_of_nil {s : State} (h : s.rst = []) : s.afterRst = s := by
  cases s; simp_all [State.afterRst]

theorem State.rstNow_of_nil {s : State} (h : s.rst = []) : s.rstNow = false := by
  simp [State.rstNow, h]

/-- A step in which `rst` is asserted. -/
theorem step_rst {s : State} (h : s.rstNow = true) : step s = .next s.afterRst.hardReset := by
  simp [step, stepOnce, h]

/-- A step in which `rst` is not asserted. -/
theorem step_row {s : State} (h : s.rstNow = false) : step s = stepPhase s.afterRst := by
  simp [step, stepOnce, h]

/-- Row IDLE with nothing offered. -/
theorem stepPhase_idle_nil {s : State} (hp : s.phase = .idle) (hc : s.cmds = []) :
    stepPhase s = .next s := by
  simp [stepPhase, hp, stepIdle, hc]

/-- Row IDLE with a command offered. -/
theorem stepPhase_idle_cons {s : State} {o : Offer} {rest : List Offer} (hp : s.phase = .idle)
    (hc : s.cmds = o :: rest) :
    stepPhase s = exec (decodeCmd o.word o.side) { s with cmds := rest } := by
  simp [stepPhase, hp, stepIdle, hc]

/-- Row T_SEL. -/
theorem stepPhase_tSel {s : State} {sl : Slot} (hp : s.phase = .tSel) (hs : s.slot = some sl) :
    stepPhase s = .next (((s.openSlot sl).pinSet csActive).setPhase .tAddr) := by
  simp [stepPhase, hp, stepSel, hs, decodePin, csActive, exec, execSelect, mapNext]

/-- Row T_SEL where SEQ indexes no slot. -/
theorem stepPhase_tSel_none {s : State} (hp : s.phase = .tSel) (hs : s.slot = none) :
    stepPhase s = .fault .slotOutOfRange := by
  simp [stepPhase, hp, stepSel, hs]

/-- Row T_ADDR. -/
theorem stepPhase_tAddr {s : State} {sl : Slot} (hp : s.phase = .tAddr) (ha : s.addr = sl.addressByte) :
    stepPhase s = sendAddress sl.addressByte s := by
  rw [stepPhase, hp]
  simp only [stepFrame, ha, Slot.addressByte]
  cases sl.kind <;> simp [exec, execWriteFrame, execReadFrame, runFrame, hp]

/-- The payload transfer of a slot, by its kind. -/
def movePayload (sl : Slot) (s : State) : Host.Outcome State Fault Refusal :=
  match sl.kind with
  | .w => sendPayload sl s
  | .r => receivePayload sl s

/-- Row T_DATA. -/
theorem stepPhase_tData {s : State} {sl : Slot} (hp : s.phase = .tData) (hs : s.slot = some sl)
    (ha : s.addr = sl.addressByte) : stepPhase s = movePayload sl s := by
  rw [stepPhase, hp]
  simp only [stepFrame, ha, Slot.addressByte, movePayload]
  cases sl.kind <;> simp [exec, execWriteFrame, execReadFrame, runFrame, hp, hs]

/-- Row T_DESEL. -/
theorem stepPhase_tDesel {s : State} (hp : s.phase = .tDesel) :
    stepPhase s = .next ((s.pinSet csInactive).setPhase .tNext) := by
  simp [stepPhase, hp, stepDesel, decodePin, csInactive, exec, execDeselect, mapNext]

/-- Row T_NEXT. -/
theorem stepPhase_tNext {s : State} (hp : s.phase = .tNext) : stepPhase s = .next s.advance := by
  simp [stepPhase, hp, stepNext]

end Sys2Proof.Machine
end

