-- ==== Sys2Proof/Laws/Ops.lean ====
section
/-! SUPPORT. For each shared operation, once, everything it can do. -/

namespace Sys2Proof.Machine

/-! ## The transport -/

theorem State.respond_nil {q : Request} {s : State} (h : s.replies = []) : s.respond q = .waits := by
  simp [State.respond, h]

/-- A transmit answered `ok` by the transport itself. -/
theorem State.respond_tx_ok {v b : List Byte} {rest : List Reply} {s : State}
    (h : s.replies = .given (.ok b) :: rest) :
    s.respond (.tx v) = .answered (.ok []) (s.answerWith (.tx v) (.ok [])) := by
  simp [State.respond, h, fitAnswer, fitDraws, State.answerWith]

/-- A request answered `fail`. -/
theorem State.respond_fail {q : Request} {rest : List Reply} {s : State}
    (h : s.replies = .given .fail :: rest) :
    s.respond q = .answered .fail (s.answerWith q .fail) := by
  simp [State.respond, h, fitAnswer, fitDraws, State.answerWith]

/-- The bytes of a receive answered with exactly the bytes asked for. -/
theorem fitBytes_exact {n : Nat} {b : List Byte} (h : b.length = n) (start : Nat) :
    fitBytes n b start = b := by
  simp [fitBytes, missingBytes, h, freeBytes, List.take_of_length_le (le_of_eq h)]

theorem freeBytes_length (k start : Nat) : (freeBytes start k).length = k := by
  induction k generalizing start with
  | zero => rfl
  | succ k ih => simp [freeBytes, ih]

/-- A receive of `n` bytes delivers `n` bytes, whatever the transport listed. -/
theorem fitBytes_length (n : Nat) (b : List Byte) (start : Nat) : (fitBytes n b start).length = n := by
  simp only [fitBytes, missingBytes, List.length_append, List.length_take, freeBytes_length]
  omega

/-- A receive answered `ok` by the transport itself with the bytes asked for. -/
theorem State.respond_rx_ok {n : Nat} {b : List Byte} {rest : List Reply} {s : State}
    (hb : b.length = n) (h : s.replies = .given (.ok b) :: rest) :
    s.respond (.rx n) = .answered (.ok b) (s.answerWith (.rx n) (.ok b)) := by
  simp [State.respond, h, fitAnswer, fitDraws, State.answerWith, fitBytes_exact hb, missingBytes, hb]

/-- A request the reference peer answers. -/
theorem State.respond_peer {q : Request} {rest : List Reply} {s : State} {p : Peer} {a : Answer}
    (h : s.replies = .fromPeer :: rest) (hp : s.peer.onRequest q = some (p, a)) :
    s.respond q = .answered a { s.answerWith q a with peer := p } := by
  simp [State.respond, h, hp]

/-- Everything `respond` can do: no answer, no meaning, or an answer that uses up one reply and adds the
answered request to the trace; an answer of the transport itself leaves the peer alone. -/
theorem State.respond_cases (q : Request) (s : State) :
    (s.replies = [] ∧ s.respond q = .waits) ∨
    (∃ rest, s.replies = .fromPeer :: rest ∧ s.peer.onRequest q = none ∧ s.respond q = .noMeaning) ∨
    (∃ a p n, s.replies ≠ [] ∧
      s.respond q = .answered a { s.answerWith q a with peer := p, freeIdx := n } ∧
      (p = s.peer ∨ ∃ a', s.peer.onRequest q = some (p, a'))) := by
  rcases h : s.replies with _ | ⟨_ | _, rest⟩
  · exact .inl ⟨rfl, State.respond_nil h⟩
  · exact .inr (.inr ⟨_, s.peer, _, by simp, by simp only [State.respond, h]; rfl, .inl rfl⟩)
  · rcases hp : s.peer.onRequest q with _ | ⟨p, a⟩
    · exact .inr (.inl ⟨rest, rfl, rfl, by simp [State.respond, h, hp]⟩)
    · exact .inr (.inr ⟨a, p, s.freeIdx, by simp, by simp [State.respond, h, hp, State.answerWith],
        .inr ⟨a, rfl⟩⟩)

/-! ## The reference peer -/

/-- The reference peer keeps its memory canonical. -/
theorem Peer.onRequest_wf {p p' : Peer} {q : Request} {a : Answer} (h : p.onRequest q = some (p', a))
    (hm : p.mem.wf = true) : p'.mem.wf = true := by
  unfold Peer.onRequest at h
  split at h
  · split at h
    · cases h
    · cases h; exact hm
  · cases h
    unfold Peer.store
    split
    · exact hm
    · exact Memory.write_wf _ _ (by omega) hm
  · cases h; exact hm
  · cases h

@[simp] theorem Peer.onPin_mem (p : Peer) (l : Level) : (p.onPin l).mem = p.mem := rfl
@[simp] theorem Peer.onPin_ro (p : Peer) (l : Level) : (p.onPin l).ro = p.ro := rfl
@[simp] theorem Peer.onPin_active (p : Peer) : p.onPin csActive = { p with frame := .await } := rfl
@[simp] theorem Peer.onPin_inactive (p : Peer) : p.onPin csInactive = { p with frame := .none } := rfl

/-! ## The sub-transfers: everything they can do -/

/-- The state with request `q` answered by `a`: one reply used up, the event in the trace, the peer moved to
`p` and the count of free bytes to `n`. -/
def State.answered (q : Request) (a : Answer) (p : Peer) (n : Nat) (s : State) : State :=
  { s.answerWith q a with peer := p, freeIdx := n }

/-- The peer after a request: untouched, or as R38 moves it. -/
def peerMoved (q : Request) (s : State) (p : Peer) : Prop :=
  p = s.peer ∨ ∃ a, s.peer.onRequest q = some (p, a)

theorem peerMoved.wf {q : Request} {s : State} {p : Peer} (h : peerMoved q s p)
    (hm : s.peer.mem.wf = true) : p.mem.wf = true := by
  rcases h with rfl | ⟨a, h⟩
  · exact hm
  · exact Peer.onRequest_wf h hm

/-- T_ADDR: the block waits on, or the answered request leads to T_DESEL with TransferError, or to
T_DATA. -/
theorem sendAddress_cases {a : Byte} {s t : State} (h : sendAddress a s = .next t) :
    (s.replies = [] ∧ t = s) ∨ ∃ x p n, peerMoved (.tx [a]) s p ∧
      ((x = .fail ∧ t = ((s.answered (.tx [a]) x p n).raiseTransferError).setPhase .tDesel) ∨
       (∃ b, x = .ok b ∧ t = (s.answered (.tx [a]) x p n).setPhase .tData)) := by
  unfold sendAddress at h
  rcases State.respond_cases (.tx [a]) s with ⟨hn, hr⟩ | ⟨_, _, _, hr⟩ | ⟨x, p, n, _, hr, hp⟩ <;>
    rw [hr] at h
  · cases h; exact .inl ⟨hn, rfl⟩
  · cases h
  · rcases x with b | _ <;> cases h
    · exact .inr ⟨_, p, n, hp, .inr ⟨b, rfl, rfl⟩⟩
    · exact .inr ⟨_, p, n, hp, .inl ⟨rfl, rfl⟩⟩

/-- T_DATA of a write transaction. -/
theorem sendPayload_cases {sl : Slot} {s t : State} (h : sendPayload sl s = .next t) :
    (s.replies = [] ∧ t = s) ∨ ∃ x p n, peerMoved (.tx sl.data) s p ∧
      ((x = .fail ∧ t = ((s.answered (.tx sl.data) x p n).raiseTransferError).setPhase .tDesel) ∨
       (∃ b, x = .ok b ∧ t = (s.answered (.tx sl.data) x p n).setPhase .tDesel)) := by
  unfold sendPayload at h
  rcases State.respond_cases (.tx sl.data) s with ⟨hn, hr⟩ | ⟨_, _, _, hr⟩ | ⟨x, p, n, _, hr, hp⟩ <;>
    rw [hr] at h
  · cases h; exact .inl ⟨hn, rfl⟩
  · cases h
  · rcases x with b | _ <;> cases h
    · exact .inr ⟨_, p, n, hp, .inr ⟨b, rfl, rfl⟩⟩
    · exact .inr ⟨_, p, n, hp, .inl ⟨rfl, rfl⟩⟩

/-- T_DATA of a read transaction. -/
theorem receivePayload_cases {sl : Slot} {s t : State} (h : receivePayload sl s = .next t) :
    (s.replies = [] ∧ t = s) ∨ ∃ x p n, peerMoved (.rx sl.len) s p ∧
      ((x = .fail ∧
          t = (((s.answered (.rx sl.len) x p n).spoil sl).raiseTransferError).setPhase .tDesel) ∨
       (∃ b, x = .ok b ∧
          t = ((s.answered (.rx sl.len) x p n).deliver sl.dest b).setPhase .tDesel)) := by
  unfold receivePayload at h
  rcases State.respond_cases (.rx sl.len) s with ⟨hn, hr⟩ | ⟨_, _, _, hr⟩ | ⟨x, p, n, _, hr, hp⟩ <;>
    rw [hr] at h
  · cases h; exact .inl ⟨hn, rfl⟩
  · cases h
  · rcases x with b | _ <;> cases h
    · exact .inr ⟨_, p, n, hp, .inr ⟨b, rfl, rfl⟩⟩
    · exact .inr ⟨_, p, n, hp, .inl ⟨rfl, rfl⟩⟩

/-- What a wire frame never changes. -/
structure FrameKeeps (s t : State) : Prop where
  hBus   : t.hBus = s.hBus
  hPort  : t.hPort = s.hPort
  hPin   : t.hPin = s.hPin
  bound  : t.bound = s.bound
  cs     : t.cs = s.cs
  op     : t.op = s.op
  reg    : t.reg = s.reg
  arg    : t.arg = s.arg
  seq    : t.seq = s.seq
  addr   : t.addr = s.addr
  wbuf   : t.wbuf = s.wbuf
  cmds   : t.cmds = s.cmds
  done   : t.done = s.done
  rst    : t.rst = s.rst
  before : t.before = s.before
  result : s.res ≠ .timeout → t.res ≠ .timeout
  memory : s.peer.mem.wf = true → t.peer.mem.wf = true

/-- How a wire frame moves: not at all while no answer comes; else by one answered request, from T_ADDR
with a transmit of one byte to T_DATA (answer `ok`) or T_DESEL (`fail`), from T_DATA to T_DESEL. -/
def FrameMoves (a : Byte) (s t : State) : Prop :=
  (s.replies = [] ∧ t = s) ∨
  (∃ x, s.phase = .tAddr ∧ t.trace = s.trace ++ [.tx s.hBus [a] Config.timeout (some x)] ∧
    ((x = .fail ∧ t.phase = .tDesel) ∨ (∃ b, x = .ok b ∧ t.phase = .tData))) ∨
  (∃ sl x, s.phase = .tData ∧ s.slot = some sl ∧ t.phase = .tDesel ∧
    (t.trace = s.trace ++ [.tx s.hBus sl.data Config.timeout (some x)] ∨
     t.trace = s.trace ++ [.rx s.hBus sl.len Config.timeout (some x)]))

theorem sendAddress_spec {a : Byte} {s t : State} (hp : s.phase = .tAddr)
    (h : sendAddress a s = .next t) : FrameKeeps s t ∧ FrameMoves a s t := by
  rcases sendAddress_cases h with ⟨hn, rfl⟩ | ⟨x, p, n, hq, ⟨rfl, rfl⟩ | ⟨b, rfl, rfl⟩⟩
  · exact ⟨by constructor <;> first | rfl | exact id, .inl ⟨hn, rfl⟩⟩
  · exact ⟨by constructor <;> first | rfl | exact hq.wf | simp, .inr (.inl ⟨_, hp, rfl, .inl ⟨rfl, rfl⟩⟩)⟩
  · exact ⟨by constructor <;> first | rfl | exact hq.wf | exact id,
      .inr (.inl ⟨_, hp, rfl, .inr ⟨b, rfl, rfl⟩⟩)⟩

theorem sendPayload_spec {a : Byte} {sl : Slot} {s t : State} (hp : s.phase = .tData)
    (hs : s.slot = some sl) (h : sendPayload sl s = .next t) : FrameKeeps s t ∧ FrameMoves a s t := by
  rcases sendPayload_cases h with ⟨hn, rfl⟩ | ⟨x, p, n, hq, ⟨rfl, rfl⟩ | ⟨b, rfl, rfl⟩⟩
  · exact ⟨by constructor <;> first | rfl | exact id, .inl ⟨hn, rfl⟩⟩
  · exact ⟨by constructor <;> first | rfl | exact hq.wf | simp,
      .inr (.inr ⟨sl, _, hp, hs, rfl, .inl rfl⟩)⟩
  · exact ⟨by constructor <;> first | rfl | exact hq.wf | exact id,
      .inr (.inr ⟨sl, _, hp, hs, rfl, .inl rfl⟩)⟩

theorem receivePayload_spec {a : Byte} {sl : Slot} {s t : State} (hp : s.phase = .tData)
    (hs : s.slot = some sl) (h : receivePayload sl s = .next t) : FrameKeeps s t ∧ FrameMoves a s t := by
  rcases receivePayload_cases h with ⟨hn, rfl⟩ | ⟨x, p, n, hq, ⟨rfl, rfl⟩ | ⟨b, rfl, rfl⟩⟩
  · exact ⟨by constructor <;> first | rfl | exact id, .inl ⟨hn, rfl⟩⟩
  · refine ⟨by constructor <;> first | (simp [State.answered]; done) | (simpa [State.answered] using hq.wf), ?_⟩
    exact .inr (.inr ⟨sl, .fail, hp, hs, rfl, .inr (by simp [State.answered, Request.event])⟩)
  · refine ⟨by constructor <;> first | (simp [State.answered]; done) | (simpa [State.answered] using hq.wf), ?_⟩
    exact .inr (.inr ⟨sl, .ok b, hp, hs, rfl, .inr (by simp [State.answered, Request.event])⟩)

/-- A wire frame that answers a next state. -/
theorem runFrame_spec {a : Byte} {move : Slot → State → Host.Outcome State Fault Refusal} {s t : State}
    (hm : move = sendPayload ∨ move = receivePayload) (h : runFrame a move s = .next t) :
    FrameKeeps s t ∧ FrameMoves a s t := by
  unfold runFrame at h
  split at h
  · exact sendAddress_spec ‹_› h
  · split at h
    · rcases hm with rfl | rfl
      · exact sendPayload_spec ‹_› ‹_› h
      · exact receivePayload_spec ‹_› ‹_› h
    · cases h
  all_goals cases h

/-! ## The command port -/

/-- A command never starts or waits but like this: it waits outside IDLE; in IDLE it starts and was not
refused. -/
theorem atPort_cases {why : Option Refusal} {started s t : State} (h : atPort why started s = .next t) :
    (s.phase ≠ .idle ∧ t = s) ∨ (s.phase = .idle ∧ why = none ∧ t = started) := by
  unfold atPort at h
  split at h
  case h_1 hp =>
    split at h
    · cases h
    · cases h; exact .inr ⟨hp, rfl, rfl⟩
  all_goals
    rename_i hp
    cases h
    exact .inl ⟨by rw [hp]; decide, rfl⟩

/-- In IDLE a command that is not refused starts. -/
theorem atPort_idle {started s : State} (hp : s.phase = .idle) : atPort none started s = .next started := by
  simp [atPort, hp]

/-- Outside IDLE a command waits. -/
theorem atPort_busy {why : Option Refusal} {started s : State} (hp : s.phase ≠ .idle) :
    atPort why started s = .next s := by
  unfold atPort
  split <;> simp_all

/-- What an accepted command leaves: the latches of R56, no event; the handle and BOUND as INIT binds them,
else as they were; and a command that R56 does not refuse. -/
structure Accepted (i : Instr) (s t : State) : Prop where
  op      : t.op = opOf i
  seq     : t.seq = 0#4
  res     : t.res = .ok
  phase   : t.phase = .tSel
  cs      : t.cs = s.cs
  addr    : t.addr = s.addr
  cur     : t.cur = s.cur
  cmds    : t.cmds = s.cmds
  done    : t.done = s.done
  replies : t.replies = s.replies
  peer    : t.peer = s.peer
  rst     : t.rst = s.rst
  before  : t.before = s.before
  trace   : t.trace = s.trace
  bound   : t.bound = true
  operands : t.operandsOk = true
  wellFormed : wellFormed i = true
  handle  : (isInit i = false ∧ s.bound = true ∧ t.hBus = s.hBus ∧ t.hPort = s.hPort ∧ t.hPin = s.hPin) ∨
    ∃ r a, i = .init r a t.hBus t.hPort t.hPin

/-- A command in IDLE that answers a next state was accepted. -/
theorem exec_accepted {i : Instr} {s t : State} (hc : isCommand i = true) (hp : s.phase = .idle)
    (h : exec i s = .next t) : Accepted i s t := by
  have key : ∀ {why : Option Refusal} {st : State}, atPort why st s = .next t → why = none ∧ t = st := by
    intro why st h
    rcases atPort_cases h with ⟨hb, _⟩ | ⟨_, hw, ht⟩
    · exact absurd hp hb
    · exact ⟨hw, ht⟩
  have hb : whyUnbound s = none → s.bound = true := by
    unfold whyUnbound
    split <;> simp_all
  cases i <;> simp only [exec, execInit, execReset, execRead, execWrite, execSetBits, execClearBits,
    execAntennaOn, execAntennaOff] at h
  case init r a b p n =>
    obtain ⟨_, rfl⟩ := key h
    exact ⟨rfl, rfl, rfl, rfl, rfl, rfl, rfl, rfl, rfl, rfl, rfl, rfl, rfl, rfl, rfl, rfl, rfl,
      .inr ⟨r, a, rfl⟩⟩
  case read r len =>
    obtain ⟨hw, rfl⟩ := key h
    unfold whyRead at hw
    split at hw
    · split at hw
      · exact ⟨rfl, rfl, rfl, rfl, rfl, rfl, rfl, rfl, rfl, rfl, rfl, rfl, rfl, rfl, ‹_›, ‹_›, ‹_›,
          .inl ⟨rfl, ‹_›, rfl, rfl, rfl⟩⟩
      · cases hw
    · cases hw
  case write r len v =>
    obtain ⟨hw, rfl⟩ := key h
    unfold whyWrite at hw
    split at hw
    · split at hw
      · split at hw
        · exact ⟨rfl, rfl, rfl, rfl, rfl, rfl, rfl, rfl, rfl, rfl, rfl, rfl, rfl, rfl, ‹_›,
            by simp_all [State.operandsOk], by simp_all [Sys2Proof.wellFormed],
            .inl ⟨rfl, ‹_›, rfl, rfl, rfl⟩⟩
        · cases hw
      · cases hw
    · cases hw
  case writeFrame => cases hc
  case readFrame => cases hc
  case select => cases hc
  case deselect => cases hc
  all_goals
    obtain ⟨hw, rfl⟩ := key h
    exact ⟨rfl, rfl, rfl, rfl, rfl, rfl, rfl, rfl, rfl, rfl, rfl, rfl, rfl, rfl, hb hw, rfl, rfl,
      .inl ⟨rfl, hb hw, rfl, rfl, rfl⟩⟩

/-- A well-formed command in IDLE, bound or INIT, is accepted. -/
theorem exec_starts {i : Instr} {s : State} (hc : isCommand i = true) (hp : s.phase = .idle)
    (hw : wellFormed i = true) (hb : isInit i = true ∨ s.bound = true) : ∃ t, exec i s = .next t := by
  rcases hb with hb | hb
  · cases i <;> simp only [isInit, Bool.false_eq_true] at hb
    exact ⟨_, atPort_idle hp⟩
  · have hu : whyUnbound s = none := by simp [whyUnbound, hb]
    cases i <;> simp only [isCommand, Bool.false_eq_true] at hc <;>
      simp only [wellFormed, Bool.and_eq_true] at hw <;>
      simp only [exec, execInit, execReset, execRead, execWrite, execSetBits, execClearBits, execAntennaOn,
        execAntennaOff, hu]
    case read r len =>
      have hr : whyRead len s = none := by simp [whyRead, hb, hw]
      rw [hr]
      exact ⟨_, atPort_idle hp⟩
    case write r len v =>
      have hr : whyWrite len v s = none := by simp [whyWrite, hb, hw]
      rw [hr]
      exact ⟨_, atPort_idle hp⟩
    all_goals exact ⟨_, atPort_idle hp⟩

/-- A command word is always a command. -/
theorem isCommand_decodeCmd (w : CmdWord) (side : Side) : isCommand (decodeCmd w side) = true := by
  unfold decodeCmd
  simp only []
  split <;> rfl

/-! ## Slots -/

/-- The slot depends on OP, REG, ARG, SEQ, CUR and WBUF alone. -/
theorem State.slot_congr {s t : State} (hop : t.op = s.op) (hreg : t.reg = s.reg) (harg : t.arg = s.arg)
    (hseq : t.seq = s.seq) (hcur : t.cur = s.cur) (hwbuf : t.wbuf = s.wbuf) : t.slot = s.slot := by
  simp only [State.slot, hop, hreg, harg, hseq, hcur, hwbuf]

/-! ## The bracket -/

/-- The bracket after one more event at the end. -/
theorem Bracket.after_append (b : Bracket) (es : List Event) (e : Event) :
    Bracket.after b (es ++ [e]) = (Bracket.after b es).bind (fun c => c.next e) := by
  induction es generalizing b with
  | nil =>
    simp only [List.nil_append, Bracket.after, Option.bind_some]
    cases b.next e <;> rfl
  | cons x xs ih =>
    simp only [List.cons_append, Bracket.after]
    cases b.next x with
    | none => rfl
    | some c => exact ih c

/-- A request is in flight only in the phases in which the chip is selected. -/
theorem State.selected_of_inFlight {s : State} (h : s.inFlight ≠ none) : s.phase.selected = true := by
  cases hp : s.phase <;> simp [State.inFlight, hp] at h <;> rfl

/-! ## T_NEXT -/

/-- The result presented is no Timeout where RES is none. -/
theorem finalRes_ne {o : Op} {r : Result} (h : r ≠ .timeout) : finalRes o r ≠ .timeout := by
  cases o <;> simp [finalRes, h]

/-- What T_NEXT never changes. -/
structure AdvanceKeeps (s t : State) : Prop where
  hBus   : t.hBus = s.hBus
  hPort  : t.hPort = s.hPort
  hPin   : t.hPin = s.hPin
  bound  : t.bound = s.bound
  cs     : t.cs = s.cs
  op     : t.op = s.op
  reg    : t.reg = s.reg
  arg    : t.arg = s.arg
  cur    : t.cur = s.cur
  wbuf   : t.wbuf = s.wbuf
  rbuf   : t.rbuf = s.rbuf
  cmds   : t.cmds = s.cmds
  replies : t.replies = s.replies
  peer   : t.peer = s.peer
  rst    : t.rst = s.rst
  before : t.before = s.before
  trace  : t.trace = s.trace
  freeIdx : t.freeIdx = s.freeIdx

theorem State.advance_keeps (s : State) : AdvanceKeeps s s.advance := by
  simp only [State.advance]
  split <;> constructor <;> rfl

/-! ## The step: everything it can do -/

/-- A step that answers a next state is hardware reset or one row of R96. -/
theorem step_cases {s t : State} (h : step s = .next t) :
    (s.rstNow = true ∧ t = s.afterRst.hardReset) ∨
    (s.rstNow = false ∧
      ((s.phase = .idle ∧ s.cmds = [] ∧ t = s.afterRst) ∨
       (s.phase = .idle ∧ ∃ o rest, s.cmds = o :: rest ∧
          Accepted (decodeCmd o.word o.side) { s.afterRst with cmds := rest } t) ∨
       (s.phase = .tSel ∧ ∃ sl, s.slot = some sl ∧
          t = ((s.afterRst.openSlot sl).pinSet csActive).setPhase .tAddr) ∨
       ((s.phase = .tAddr ∨ s.phase = .tData) ∧ ∃ a, FrameKeeps s.afterRst t ∧ FrameMoves a s.afterRst t) ∨
       (s.phase = .tDesel ∧ t = (s.afterRst.pinSet csInactive).setPhase .tNext) ∨
       (s.phase = .tNext ∧ t = s.afterRst.advance))) := by
  cases hr : s.rstNow
  · refine .inr ⟨rfl, ?_⟩
    rw [step_row hr] at h
    cases hp : s.phase
    · rcases hc : s.cmds with _ | ⟨o, rest⟩
      · rw [stepPhase_idle_nil (s := s.afterRst) hp hc] at h
        cases h
        exact .inl ⟨rfl, rfl, rfl⟩
      · rw [stepPhase_idle_cons (s := s.afterRst) hp hc] at h
        exact .inr (.inl ⟨rfl, o, rest, rfl,
          exec_accepted (isCommand_decodeCmd _ _) (s := { s.afterRst with cmds := rest }) hp h⟩)
    · rcases hs : s.slot with _ | sl
      · rw [stepPhase_tSel_none (s := s.afterRst) hp hs] at h
        cases h
      · rw [stepPhase_tSel (s := s.afterRst) hp hs] at h
        cases h
        exact .inr (.inr (.inl ⟨rfl, sl, rfl, rfl⟩))
    iterate 2
      refine .inr (.inr (.inr (.inl ⟨by simp, ?_⟩)))
      have hp' : s.afterRst.phase = _ := hp
      simp only [stepPhase, hp', stepFrame] at h
      unfold decodeFrame at h
      split at h
      · rename_i hd
        split at hd
        · cases hd
        · split at hd
          · cases hd; exact ⟨_, runFrame_spec (.inr rfl) h⟩
          · cases hd; exact ⟨_, runFrame_spec (.inl rfl) h⟩
      · cases h
    · rw [stepPhase_tDesel (s := s.afterRst) hp] at h
      cases h
      exact .inr (.inr (.inr (.inr (.inl ⟨rfl, rfl⟩))))
    · rw [stepPhase_tNext (s := s.afterRst) hp] at h
      cases h
      exact .inr (.inr (.inr (.inr (.inr ⟨rfl, rfl⟩))))
  · rw [step_rst hr] at h
    cases h
    exact .inl ⟨rfl, rfl⟩

end Sys2Proof.Machine
end

