-- ==== Sys2Proof/Laws/PerInstr.lean ====
section
/-! SUPPORT. A statement for every instruction: its encoded word matches its row of
spec/opcode_table.json. -/

namespace Sys2Proof.Laws

/-- The bits of an encoded instruction, as a number. -/
def encodedBits (e : Encoded) : Nat :=
  match e with
  | .cmd o => o.word.toNat
  | .frame a => a.toNat
  | .pin l => l.toNat

/-- The columns `mask` and `match` of the instruction's row of spec/opcode_table.json. -/
def tableRow (i : Instr) : Nat × Nat :=
  match i with
  | .init _ _ _ _ _ => (0x1C000, 0x00000)
  | .reset _ _ => (0x1C000, 0x04000)
  | .read _ _ => (0x1C000, 0x08000)
  | .write _ _ _ => (0x1C000, 0x0C000)
  | .setBits _ _ => (0x1C000, 0x10000)
  | .clearBits _ _ => (0x1C000, 0x14000)
  | .antennaOn _ _ => (0x1C000, 0x18000)
  | .antennaOff _ _ => (0x1C000, 0x1C000)
  | .writeFrame _ => (0x81, 0x00)
  | .readFrame _ => (0x81, 0x80)
  | .select => (0x1, 0x0)
  | .deselect => (0x1, 0x1)

namespace TableRow

/-- The fixed bits of the row stand in the encoded word. -/
def Statement (i : Instr) : Prop := encodedBits (encode i) &&& (tableRow i).1 = (tableRow i).2

/-- The fixed bits of a command word, as numbers. -/
theorem cmd_fixed (op : BitVec 3) (reg : RegIndex) (arg : Byte) :
    (cmdWord op reg arg).toNat &&& 0x1C000 = (op ++ 0#14 : BitVec 17).toNat := by
  have h := congrArg BitVec.toNat (cmdWord_fixed op reg arg)
  rw [BitVec.toNat_and] at h
  exact h

theorem init (reg : RegIndex) (arg : Byte) (bus : BusRef) (port : PortRef) (pin : PinRef) :
    Statement (.init reg arg bus port pin) :=
  cmd_fixed 0b000#3 reg arg

theorem reset (reg : RegIndex) (arg : Byte) : Statement (.reset reg arg) :=
  cmd_fixed 0b001#3 reg arg

theorem read (reg : RegIndex) (len : Byte) : Statement (.read reg len) :=
  cmd_fixed 0b010#3 reg len

theorem write (reg : RegIndex) (len : Byte) (payload : List Byte) : Statement (.write reg len payload) :=
  cmd_fixed 0b011#3 reg len

theorem setBits (reg : RegIndex) (mask : Byte) : Statement (.setBits reg mask) :=
  cmd_fixed 0b100#3 reg mask

theorem clearBits (reg : RegIndex) (mask : Byte) : Statement (.clearBits reg mask) :=
  cmd_fixed 0b101#3 reg mask

theorem antennaOn (reg : RegIndex) (arg : Byte) : Statement (.antennaOn reg arg) :=
  cmd_fixed 0b110#3 reg arg

theorem antennaOff (reg : RegIndex) (arg : Byte) : Statement (.antennaOff reg arg) :=
  cmd_fixed 0b111#3 reg arg

theorem writeFrame (reg : RegIndex) : Statement (.writeFrame reg) := by
  revert reg
  unfold Statement
  decide

theorem readFrame (reg : RegIndex) : Statement (.readFrame reg) := by
  revert reg
  unfold Statement
  decide

theorem select : Statement .select := by
  unfold Statement
  decide

theorem deselect : Statement .deselect := by
  unfold Statement
  decide

end TableRow

end Sys2Proof.Laws
end

