-- ==== Sys2Proof/Laws/Slots.lean ====
section
/-! SUPPORT. One transaction slot as a whole: from T_SEL to T_NEXT, for each of the outcomes of R99, and the
move to the next slot or to completion. Whole operations are chains of these. -/

namespace Sys2Proof.Machine

/-- What a transaction leaves at T_NEXT: released, with its outcome in RES and its events in the trace. -/
def State.afterSlot (s : State) (sl : Slot) (res : Result) (events : List Event) (rest : List Reply) :
    State :=
  { s with
    phase := .tNext
    cs := csInactive
    addr := sl.addressByte
    res := res
    trace := s.trace ++ events
    replies := rest
    peer := { s.peer with frame := .none } }

@[simp] theorem State.afterSlot_slot (s : State) (sl : Slot) (res : Result) (es : List Event)
    (rest : List Reply) : (s.afterSlot sl res es rest).slot = s.slot := rfl

/-- The premises of a transaction: T_SEL, no hardware reset, and the slot `sl`. -/
structure AtSlot (s : State) (sl : Slot) : Prop where
  phase : s.phase = .tSel
  noRst : s.rst = []
  slot  : s.slot = some sl

/-- The state in T_ADDR. -/
def State.atAddr (s : State) (sl : Slot) : State := ((s.openSlot sl).pinSet csActive).setPhase .tAddr

theorem AtSlot.step_sel {s : State} {sl : Slot} (h : AtSlot s sl) : step s = .next (s.atAddr sl) := by
  rw [step_row (State.rstNow_of_nil h.noRst), State.afterRst_of_nil h.noRst,
    stepPhase_tSel h.phase h.slot]
  rfl

theorem AtSlot.step_addr {s : State} {sl : Slot} (h : AtSlot s sl) :
    step (s.atAddr sl) = sendAddress sl.addressByte (s.atAddr sl) := by
  have hr : (s.atAddr sl).rst = [] := h.noRst
  rw [step_row (State.rstNow_of_nil hr), State.afterRst_of_nil hr, stepPhase_tAddr (s := s.atAddr sl) (sl := sl) rfl rfl]

/-- The state in T_DATA, the address byte answered `ok` by the transport. -/
def State.atData (s : State) (sl : Slot) : State :=
  ((s.atAddr sl).answerWith (.tx [sl.addressByte]) (.ok [])).setPhase .tData

theorem AtSlot.step_data {s : State} {sl : Slot} (h : AtSlot s sl) :
    step (s.atData sl) = movePayload sl (s.atData sl) := by
  have hr : (s.atData sl).rst = [] := h.noRst
  rw [step_row (State.rstNow_of_nil hr), State.afterRst_of_nil hr,
    stepPhase_tData (s := s.atData sl) (sl := sl) rfl (by simp [State.atData, State.atAddr, h.slot])
      (by simp [State.atData, State.atAddr])]

/-- A step in T_DESEL. -/
theorem step_desel {s : State} (hp : s.phase = .tDesel) (hr : s.rst = []) :
    step s = .next ((s.pinSet csInactive).setPhase .tNext) := by
  rw [step_row (State.rstNow_of_nil hr), State.afterRst_of_nil hr, stepPhase_tDesel hp]

/-- A step in T_NEXT. -/
theorem step_next {s : State} (hp : s.phase = .tNext) (hr : s.rst = []) : step s = .next s.advance := by
  rw [step_row (State.rstNow_of_nil hr), State.afterRst_of_nil hr, stepPhase_tNext hp]

/-- W3 and RD3 of R99: the address byte fails, the payload transfer is skipped. -/
theorem AtSlot.run_address_fails {s : State} {sl : Slot} (h : AtSlot s sl) {rest : List Reply}
    (hq : s.replies = .given .fail :: rest) :
    run 3 s = .next (s.afterSlot sl .transferError
      [s.evCS csActive, s.evTx [sl.addressByte] .fail, s.evCS csInactive] rest) := by
  have h2 : step (s.atAddr sl) = .next (((s.atAddr sl).answerWith (.tx [sl.addressByte])
      .fail).raiseTransferError.setPhase .tDesel) := by
    rw [h.step_addr, sendAddress, State.respond_fail (s := s.atAddr sl) hq]
  rw [run_succ _ h.step_sel, run_succ _ h2, run_succ _ (step_desel rfl (by simpa [State.atData, State.atAddr] using h.noRst)), run_zero]
  obtain ⟨_, _, _⟩ := h
  simp [State.afterSlot, State.atAddr, State.setPhase, State.pinSet, State.openSlot, State.clearRes,
    State.raiseTransferError, State.answerWith, Request.event, State.evCS, State.evTx, hq]

/-- The address byte is answered `ok`. -/
theorem AtSlot.run_address_ok {s : State} {sl : Slot} (h : AtSlot s sl) {b : List Byte}
    {rest : List Reply} (hq : s.replies = .given (.ok b) :: rest) :
    run 2 s = .next (s.atData sl) := by
  have h2 : step (s.atAddr sl) = .next (s.atData sl) := by
    rw [h.step_addr, sendAddress, State.respond_tx_ok (s := s.atAddr sl) hq]
    rfl
  rw [run_succ _ h.step_sel, run_succ _ h2, run_zero]

/-- W1 of R99. -/
theorem AtSlot.run_write_ok {s : State} {sl : Slot} (h : AtSlot s sl) (hk : sl.kind = .w)
    {b₁ b₂ : List Byte} {rest : List Reply}
    (hq : s.replies = .given (.ok b₁) :: .given (.ok b₂) :: rest) :
    run 4 s = .next (s.afterSlot sl .ok
      [s.evCS csActive, s.evTx [sl.addressByte] (.ok []), s.evTx sl.data (.ok []), s.evCS csInactive]
      rest) := by
  have hd : (s.atData sl).replies = .given (.ok b₂) :: rest := by simp [State.atData, State.atAddr, hq]
  have h3 : step (s.atData sl) = .next (((s.atData sl).answerWith (.tx sl.data)
      (.ok [])).setPhase .tDesel) := by
    rw [h.step_data, movePayload, hk]
    simp only [sendPayload]
    rw [State.respond_tx_ok hd]
  rw [run_add 2 (h.run_address_ok hq), run_succ _ h3, run_succ _ (step_desel rfl (by simpa [State.atData, State.atAddr] using h.noRst)), run_zero]
  simp [State.afterSlot, State.atData, State.atAddr, State.setPhase, State.pinSet, State.openSlot,
    State.clearRes, State.answerWith, Request.event, State.evCS, State.evTx, hq]

/-- W2 of R99. -/
theorem AtSlot.run_write_fails {s : State} {sl : Slot} (h : AtSlot s sl) (hk : sl.kind = .w)
    {b₁ : List Byte} {rest : List Reply} (hq : s.replies = .given (.ok b₁) :: .given .fail :: rest) :
    run 4 s = .next (s.afterSlot sl .transferError
      [s.evCS csActive, s.evTx [sl.addressByte] (.ok []), s.evTx sl.data .fail, s.evCS csInactive]
      rest) := by
  have hd : (s.atData sl).replies = .given .fail :: rest := by simp [State.atData, State.atAddr, hq]
  have h3 : step (s.atData sl) = .next (((s.atData sl).answerWith (.tx sl.data)
      .fail).raiseTransferError.setPhase .tDesel) := by
    rw [h.step_data, movePayload, hk]
    simp only [sendPayload]
    rw [State.respond_fail hd]
  rw [run_add 2 (h.run_address_ok hq), run_succ _ h3, run_succ _ (step_desel rfl (by simpa [State.atData, State.atAddr] using h.noRst)), run_zero]
  simp [State.afterSlot, State.atData, State.atAddr, State.setPhase, State.pinSet, State.openSlot,
    State.clearRes, State.raiseTransferError, State.answerWith, Request.event, State.evCS, State.evTx, hq]

/-- RD1 of R99. -/
theorem AtSlot.run_read_ok {s : State} {sl : Slot} (h : AtSlot s sl) (hk : sl.kind = .r)
    {b₁ b : List Byte} {rest : List Reply} (hb : b.length = sl.len)
    (hq : s.replies = .given (.ok b₁) :: .given (.ok b) :: rest) :
    run 4 s = .next ((s.deliver sl.dest b).afterSlot sl .ok
      [s.evCS csActive, s.evTx [sl.addressByte] (.ok []), s.evRx sl.len (.ok b), s.evCS csInactive]
      rest) := by
  have hd : (s.atData sl).replies = .given (.ok b) :: rest := by simp [State.atData, State.atAddr, hq]
  have h3 : step (s.atData sl) = .next ((((s.atData sl).answerWith (.rx sl.len)
      (.ok b)).deliver sl.dest b).setPhase .tDesel) := by
    rw [h.step_data, movePayload, hk]
    simp only [receivePayload]
    rw [State.respond_rx_ok hb hd]
  rw [run_add 2 (h.run_address_ok hq), run_succ _ h3,
    run_succ _ (step_desel rfl (by simpa [State.atData, State.atAddr] using h.noRst)), run_zero]
  cases sl.dest <;> cases b <;>
    simp [State.deliver, State.afterSlot, State.atData, State.atAddr, State.setPhase, State.pinSet,
      State.openSlot, State.clearRes, State.answerWith, Request.event, State.evCS, State.evTx,
      State.evRx, hq]

/-- RD2 of R99. -/
theorem AtSlot.run_read_fails {s : State} {sl : Slot} (h : AtSlot s sl) (hk : sl.kind = .r)
    {b₁ : List Byte} {rest : List Reply} (hq : s.replies = .given (.ok b₁) :: .given .fail :: rest) :
    run 4 s = .next ((s.spoil sl).afterSlot sl .transferError
      [s.evCS csActive, s.evTx [sl.addressByte] (.ok []), s.evRx sl.len .fail, s.evCS csInactive]
      rest) := by
  have hd : (s.atData sl).replies = .given .fail :: rest := by simp [State.atData, State.atAddr, hq]
  have h3 : step (s.atData sl) = .next ((((s.atData sl).answerWith (.rx sl.len)
      .fail).spoil sl).raiseTransferError.setPhase .tDesel) := by
    rw [h.step_data, movePayload, hk]
    simp only [receivePayload]
    rw [State.respond_fail hd]
  rw [run_add 2 (h.run_address_ok hq), run_succ _ h3,
    run_succ _ (step_desel rfl (by simpa [State.atData, State.atAddr] using h.noRst)), run_zero]
  simp only [State.spoil]
  cases sl.dest <;>
    simp [State.clobberRbuf, State.afterSlot, State.atData, State.atAddr, State.setPhase, State.pinSet,
      State.openSlot, State.clearRes, State.raiseTransferError, State.answerWith, Request.event,
      State.evCS, State.evTx, State.evRx, hq]

/-! ## A slot whatever the transport answers -/

/-- What no transaction changes, and where it ends: T_NEXT, released, with a result other than Timeout. -/
structure SlotDone (s u : State) : Prop where
  phase  : u.phase = .tNext
  level  : u.cs = csInactive
  noRst  : u.rst = []
  result : u.res ≠ .timeout
  op     : u.op = s.op
  seq    : u.seq = s.seq
  reg    : u.reg = s.reg
  arg    : u.arg = s.arg
  wbuf   : u.wbuf = s.wbuf
  hBus   : u.hBus = s.hBus
  hPort  : u.hPort = s.hPort
  hPin   : u.hPin = s.hPin
  bound  : u.bound = s.bound
  cmds   : u.cmds = s.cmds
  done   : u.done = s.done
  before : u.before = s.before

theorem SlotDone.afterSlot {s : State} {sl : Slot} {res : Result} (es : List Event) (rest : List Reply)
    (hn : s.rst = []) (hr : res ≠ .timeout) : SlotDone s (s.afterSlot sl res es rest) := by
  constructor <;> first | rfl | exact hn | exact hr

/-- A slot of a transport that answers both requests: it ends within 4 steps, at T_NEXT, having emitted 3
or 4 events, the address byte among them. -/
theorem AtSlot.completes {s : State} {sl : Slot} (h : AtSlot s sl) {a₁ a₂ : Answer} {as : List Answer}
    {rest : List Reply} (hq : s.replies = (a₁ :: a₂ :: as).map Reply.given ++ rest) :
    ∃ k u es as', k ≤ 4 ∧ run k s = .next u ∧ SlotDone s u ∧ u.trace = s.trace ++ es ∧
      3 ≤ es.length ∧ es.length ≤ 4 ∧ (∃ x, s.evTx [sl.addressByte] x ∈ es) ∧
      u.replies = List.map Reply.given as' ++ rest ∧ as.length ≤ as'.length := by
  have hr := h.noRst
  rcases a₁ with b₁ | _
  · have hq' : s.replies = .given (.ok b₁) :: .given a₂ :: (as.map Reply.given ++ rest) := hq
    rcases hk : sl.kind with _ | _
    · rcases a₂ with b₂ | _
      · exact ⟨4, _, _, as, by omega, h.run_write_ok hk hq', .afterSlot _ _ hr (by decide), rfl,
          by simp, by simp, ⟨_, List.mem_cons_of_mem _ List.mem_cons_self⟩, rfl, le_refl _⟩
      · exact ⟨4, _, _, as, by omega, h.run_write_fails hk hq', .afterSlot _ _ hr (by decide), rfl,
          by simp, by simp, ⟨_, List.mem_cons_of_mem _ List.mem_cons_self⟩, rfl, le_refl _⟩
    · rcases a₂ with b₂ | _
      · have hd : (s.atData sl).replies = .given (.ok b₂) :: (as.map Reply.given ++ rest) := by
          simp [State.atData, State.atAddr, hq']
        let v := fitBytes sl.len b₂ s.freeIdx
        let m := s.freeIdx + missingBytes sl.len b₂
        have h3 : step (s.atData sl) = .next ((State.deliver sl.dest v
            { (s.atData sl).answerWith (.rx sl.len) (.ok v) with freeIdx := m }).setPhase .tDesel) := by
          rw [h.step_data, movePayload, hk]
          simp only [receivePayload, State.respond, hd, fitAnswer, fitDraws]
          rfl
        have hrun := (run_add 2 (h.run_address_ok hq')).trans ((run_succ 1 h3).trans (run_succ 0
          (step_desel rfl (by simpa [State.atData, State.atAddr] using hr))))
        refine ⟨4, _, [s.evCS csActive, s.evTx [sl.addressByte] (.ok []), s.evRx sl.len (.ok v),
          s.evCS csInactive], as, by omega, hrun, ?_, ?_, by simp, by simp,
          ⟨_, List.mem_cons_of_mem _ List.mem_cons_self⟩, ?_, le_refl _⟩
        · constructor <;> simp [State.atData, State.atAddr, hr]
        · simp [State.atData, State.atAddr, Request.event, State.evCS, State.evTx, State.evRx]
        · simp [State.atData, State.atAddr, hq']
      · refine ⟨4, _, [s.evCS csActive, s.evTx [sl.addressByte] (.ok []), s.evRx sl.len .fail,
          s.evCS csInactive], as, by omega, h.run_read_fails hk hq', ?_, ?_, ?_, ?_,
          ⟨_, List.mem_cons_of_mem _ List.mem_cons_self⟩, rfl, le_refl _⟩
        · constructor <;> simp [State.afterSlot, hr]
        · simp [State.afterSlot]
        · simp
        · simp
  · have hq' : s.replies = .given .fail :: ((a₂ :: as).map Reply.given ++ rest) := hq
    exact ⟨3, _, _, a₂ :: as, by omega, h.run_address_fails hq', .afterSlot _ _ hr (by decide), rfl,
      by simp, by simp, ⟨_, List.mem_cons_of_mem _ List.mem_cons_self⟩, rfl, by simp⟩

/-! ## From slot to slot -/

/-- SEQ within the operation's slots indexes a slot. -/
theorem State.slot_of_lt {s : State} (h : s.seq.toNat < slotCount s.op) : ∃ sl, s.slot = some sl := by
  unfold State.slot
  cases hop : s.op <;> rw [hop] at h <;> simp only [slotCount] at h
  case init =>
    generalize s.seq.toNat = n at h
    interval_cases n <;> exact ⟨_, rfl⟩
  all_goals
    generalize s.seq.toNat = n at h
    interval_cases n <;> exact ⟨_, rfl⟩

/-- SEQ past the operation's slots indexes none. -/
theorem State.slot_lt {s : State} {sl : Slot} (h : s.slot = some sl) :
    s.seq.toNat < slotCount s.op := by
  unfold State.slot at h
  cases hop : s.op <;> rw [hop] at h <;> simp only [slotCount]
  case init =>
    simp only [initSlot] at h
    split at h <;> first | omega | cases h
  all_goals
    first
      | (simp only [singleSlot] at h; split at h <;> first | omega | cases h)
      | (simp only [rmwSlot] at h; split at h <;> first | omega | cases h)

theorem seqStep_le (o : Op) (n : Nat) (r : Result) : 1 ≤ seqStep o n r ∧ seqStep o n r ≤ 2 := by
  unfold seqStep
  split <;> omega

/-- Every operation has at most twelve slots. -/
theorem slotCount_le (o : Op) : slotCount o ≤ 12 := by
  cases o <;> decide

/-- T_NEXT before the last slot. -/
theorem State.advance_of_lt {s : State} (h : s.seq.toNat + seqStep s.op s.seq.toNat s.res < slotCount s.op) :
    s.advance = { s with
      seq := BitVec.ofNat 4 (s.seq.toNat + seqStep s.op s.seq.toNat s.res), phase := .tSel } := by
  simp only [State.advance]
  rw [if_neg (by omega)]
  rfl

/-- T_NEXT at the last slot. -/
theorem State.advance_of_ge {s : State} (h : slotCount s.op ≤ s.seq.toNat + seqStep s.op s.seq.toNat s.res) :
    s.advance = State.complete { s with
      seq := BitVec.ofNat 4 (s.seq.toNat + seqStep s.op s.seq.toNat s.res) } := by
  simp only [State.advance]
  rw [if_pos h]

end Sys2Proof.Machine
end

