-- ==== Sys2Proof/Tests/Slice0.lean ====
section
/-! SUPPORT. Tests of the model against the words, refusals and vectors of spec/30_encoding.md section 7 and
spec/95_test_vectors.md, and for every statement with hypotheses a named state and operands that meet
them. -/

namespace Sys2Proof.Tests

open Sys2Proof.Machine

/-! ## Small states -/

/-- Bound and idle, with these replies to come. -/
def bound (rs : List Reply) : State := { State.reset with bound := true, replies := rs }

/-- Bound, `op` accepted with these fields, in this phase with SEQ 0 and the line low. -/
def running (p : Phase) (o : Op) (reg : RegIndex) (arg : Byte) (rs : List Reply) : State :=
  { bound rs with phase := p, op := o, reg := reg, arg := arg, cs := csActive }

/-- The next state of an outcome, if there is one. -/
def after (o : Host.Outcome State Fault Refusal) : Option State :=
  match o with
  | .next s => some s
  | .fault _ => none
  | .refused _ => none

/-- The refusal of an outcome, if it is one. -/
def why (o : Host.Outcome State Fault Refusal) : Option Refusal :=
  match o with
  | .next _ => none
  | .fault _ => none
  | .refused r => some r

/-! ## Well-formedness: each check refuses an ill-formed term -/

theorem test_wellFormed_read_zero : wellFormed (.read 0x37#6 0x00#8) = false := by decide
theorem test_wellFormed_read_one : wellFormed (.read 0x37#6 0x01#8) = true := by decide
theorem test_wellFormed_write_zero : wellFormed (.write 0x00#6 0x00#8 []) = false := by decide
theorem test_wellFormed_write_short : wellFormed (.write 0x00#6 0x02#8 [0x00#8]) = false := by decide
theorem test_wellFormed_write_one : wellFormed (.write 0x00#6 0x01#8 [0x00#8]) = true := by decide

/-! ## Decoding: words of spec/95_test_vectors.md section 3.1 and spec/30_encoding.md section 7, bits written
out as op, reg, arg -/

theorem test_decode_init :
    decodeCmd 0b000_000000_00000000#17 ⟨⟨1⟩, ⟨2⟩, ⟨4⟩, []⟩ = .init 0x00#6 0x00#8 ⟨1⟩ ⟨2⟩ ⟨4⟩ := by decide
theorem test_decode_reset : decodeTableWord 17 0b001_001010_10111100 = some (.reset 0x0A#6 0xBC#8) := by
  decide
theorem test_decode_read : decodeTableWord 17 0b010_110111_00000001 = some (.read 0x37#6 0x01#8) := by
  decide
theorem test_decode_read_longest : decodeTableWord 17 0x080FF = some (.read 0x00#6 0xFF#8) := by decide
theorem test_decode_write :
    decodeCmd 0b011_101010_00000001#17 { noSide with wbuf := [0x80#8] } =
      .write 0x2A#6 0x01#8 [0x80#8] := by decide
theorem test_decode_setBits :
    decodeTableWord 17 0b100_000101_11110000 = some (.setBits 0x05#6 0xF0#8) := by decide
theorem test_decode_clearBits :
    decodeTableWord 17 0b101_010100_10000001 = some (.clearBits 0x14#6 0x81#8) := by decide
theorem test_decode_antennaOn :
    decodeTableWord 17 0b110_000000_00000000 = some (.antennaOn 0x00#6 0x00#8) := by decide
theorem test_decode_antennaOff :
    decodeTableWord 17 0b111_000000_00000000 = some (.antennaOff 0x00#6 0x00#8) := by decide
theorem test_decode_writeFrame : decodeTableWord 8 0b0_101010_0 = some (.writeFrame 0x2A#6) := by decide
theorem test_decode_readFrame : decodeTableWord 8 0b1_110111_0 = some (.readFrame 0x37#6) := by decide
theorem test_decode_pad : decodeFrame 0b1_110111_1#8 = .error .padBitSet := by decide
theorem test_decode_select : decodeTableWord 1 0 = some .select := by decide
theorem test_decode_deselect : decodeTableWord 1 1 = some .deselect := by decide

/-! ## Placing a table word: the very next step runs it -/

theorem test_place_init :
    (after (step (State.reset.withFetchWord 17 0x00000))).map (fun s => (s.phase, s.bound)) =
      some (.tSel, true) := by decide
theorem test_place_read :
    (after (step ((bound []).withFetchWord 17 0x0B701))).map (fun s => (s.op, s.reg, s.arg)) =
      some (.read, 0x37#6, 0x01#8) := by decide
theorem test_place_frame :
    (after (step ((bound [.given (.ok [])]).withFetchWord 8 0x54))).map State.trace =
      some [.tx ⟨0⟩ [0x54#8] .waitForever (some (.ok []))] := by decide
theorem test_place_deselect :
    (after (step ((bound []).withFetchWord 1 1))).map State.trace = some [.pin ⟨0⟩ ⟨0⟩ 1#1] := by decide

/-! ## Refusals: spec/95_test_vectors.md section 3.2 -/

theorem test_refuse_unbound : why (exec (.read 0x37#6 0x01#8) State.reset) = some .unbound := by decide
theorem test_accept_init :
    (after (exec (.init 0#6 0#8 ⟨1⟩ ⟨2⟩ ⟨4⟩) State.reset)).map (fun s => (s.hBus, s.hPort, s.hPin)) =
      some (⟨1⟩, ⟨2⟩, ⟨4⟩) := by decide
theorem test_refuse_read_zero : why (exec (.read 0x37#6 0x00#8) (bound [])) = some .zeroLength := by decide
theorem test_refuse_write_zero : why (exec (.write 0x00#6 0x00#8 []) (bound [])) = some .zeroLength := by
  decide
theorem test_refuse_write_short :
    why (exec (.write 0x00#6 0x02#8 [0x00#8]) (bound [])) = some .payloadLength := by decide
theorem test_accept_write :
    (after (exec (.write 0x00#6 0x01#8 [0x00#8]) (bound []))).map State.wbuf = some [0x00#8] := by decide

/-! ## The gate: spec/95_test_vectors.md section 3.3, all four rows -/

theorem test_select_twice :
    (after (exec .select { bound [] with cs := 0#1 })).map (fun s => (s.cs, s.trace)) =
      some (0#1, [.pin ⟨0⟩ ⟨0⟩ 0#1]) := by decide
theorem test_select :
    (after (exec .select (bound []))).map (fun s => (s.cs, s.trace)) =
      some (0#1, [.pin ⟨0⟩ ⟨0⟩ 0#1]) := by decide
theorem test_deselect :
    (after (exec .deselect { bound [] with cs := 0#1 })).map (fun s => (s.cs, s.trace)) =
      some (1#1, [.pin ⟨0⟩ ⟨0⟩ 1#1]) := by decide
theorem test_deselect_twice :
    (after (exec .deselect (bound []))).map (fun s => (s.cs, s.trace)) =
      some (1#1, [.pin ⟨0⟩ ⟨0⟩ 1#1]) := by decide

/-! ## Single steps of transactions: spec/95_test_vectors.md sections 3.4 to 3.6 -/

/-- `read 0x00, 3`: T_SEL latches the address byte 0x80. -/
theorem test_step_sel :
    (after (step (running .tSel .read 0x00#6 0x03#8 []))).map (fun s => (s.addr, s.phase, s.cs)) =
      some (0x80#8, .tAddr, 0#1) := by decide

/-- `write 0x11, [0x3D, 0x00]`: one request of two bytes, 0x3D first. -/
theorem test_step_writeFrame :
    (after (exec (.writeFrame 0x11#6)
      { running .tData .write 0x11#6 0x02#8 [.given (.ok [])] with wbuf := [0x3D#8, 0x00#8] })).map
      State.trace = some [.tx ⟨0⟩ [0x3D#8, 0x00#8] .waitForever (some (.ok []))] := by decide

/-- `write 0x2A, [0x80]`, address byte answered `fail`: the payload is skipped. -/
theorem test_step_writeFrame_fail :
    (after (exec (.writeFrame 0x2A#6) (running .tAddr .write 0x2A#6 0x01#8 [.given .fail]))).map
      (fun s => (s.phase, s.res)) = some (.tDesel, .transferError) := by decide

/-- `read 0x00, 3` answered with 0x01 0x02 0x03. -/
theorem test_step_readFrame :
    (after (exec (.readFrame 0x00#6)
      (running .tData .read 0x00#6 0x03#8 [.given (.ok [0x01#8, 0x02#8, 0x03#8])]))).map State.rbuf =
      some [0x01#8, 0x02#8, 0x03#8] := by decide

/-- `set_bits 0x05, 0xF0` with the byte read 0x0F: the write slot sends 0xFF to register 5. -/
theorem test_slot_setBits :
    State.slot { running .tSel .setBits 0x05#6 0xF0#8 [] with seq := 1#4, cur := 0x0F#8 } =
      some (writeSlot 0x05#6 [0xFF#8]) := by decide

/-- `clear_bits 0x14, 0x81` with the byte read 0x83: the write slot sends 0x02. -/
theorem test_slot_clearBits :
    State.slot { running .tSel .clearBits 0x14#6 0x81#8 [] with seq := 1#4, cur := 0x83#8 } =
      some (writeSlot 0x14#6 [0x02#8]) := by decide

/-- The antenna bytes of section 3.5: from 0x80, `antenna_on` writes 0x83; from 0x83, `antenna_off` writes
0x80. -/
theorem test_antenna_bytes : setMask 0x80#8 antMask = 0x83#8 ∧ clearMask 0x83#8 antMask = 0x80#8 := by
  decide

/-- `set_bits`, read half failed: slot 1 is skipped and the operation completes with TransferError. -/
theorem test_step_next_skips :
    (after (step { running .tNext .setBits 0x05#6 0xF0#8 [] with res := .transferError })).map
      (fun s => (s.phase, s.done)) = some (.idle, [⟨.setBits, .transferError, []⟩]) := by decide

/-- `init`, slot 9 failed: the next slot is 11 (R116). -/
theorem test_step_next_init :
    (after (step { running .tNext .init 0#6 0#8 [] with seq := 9#4, res := .transferError })).map
      (fun s => (s.phase, s.seq)) = some (.tSel, 11#4) := by decide

/-- `reset` of the peer uses the slot of `write REG_COMMAND, [VAL_RESET_CMD]` (R110). -/
theorem test_slot_reset (rs : List Reply) :
    (running .tSel .reset 0#6 0#8 rs).slot = some (writeSlot Config.regCommand [Config.valResetCmd]) := rfl

/-! ## Witnesses: the hypotheses of the statements can be met

One theorem for each statement with hypotheses, with a conjunct (or a theorem of its own) for each clause. -/

/-- A state in T_ADDR of `read 0x37, 1`, as a run reaches it: the line low, the address byte latched, the
pin event in the trace. -/
def asking (rs : List Reply) : State :=
  { running .tAddr .read 0x37#6 0x01#8 rs with
    addr := encR 0x37#6
    trace := [.pin ⟨0⟩ ⟨0⟩ csActive] }

theorem asking_inv (rs : List Reply) : Inv (asking rs) where
  level := rfl
  bound := fun _ => rfl
  slot := fun _ => Nat.zero_lt_one
  address := fun _ => ⟨readSlot 0x37#6 1 .rbuf, rfl, rfl⟩
  operands := fun _ => rfl
  result := by simp [asking, running, Tests.bound, State.reset]
  results := by simp [asking, running, Tests.bound, State.reset]
  bracket := rfl
  memory := rfl

theorem bound_ready (rs : List Reply) : Ready (bound rs) := ⟨rfl, rfl, rfl⟩

theorem reset_ready : Ready State.reset := ⟨rfl, rfl, rfl⟩

theorem witness_DecodeEncodeAgree :
    wellFormed (.write 0x3F#6 0x02#8 [0xFF#8, 0x00#8]) = true ∧ wellFormed (.read 0x00#6 0xFF#8) = true := by
  decide

theorem witness_EncodeDecodeAgree : decodeFrame 0xFE#8 = .ok (.readFrame 0x3F#6) := by decide

theorem witness_OpCodesOfCommands : isCommand (.antennaOff 0#6 0#8) = true := by decide

theorem witness_AddressByteProperties :
    encW 0x3F#6 = encW 0x3F#6 ∧ encR 0x00#6 = encR 0x00#6 ∧ (0xFE#8).getLsbD 0 = false := by decide

theorem witness_AddressByteDecoding :
    (framePad 0x80#8 = false ∧ (0x80#8).getLsbD 7 = true) ∧
      (framePad 0x7E#8 = false ∧ (0x7E#8).getLsbD 7 = false) := by decide

theorem witness_RejectedEncodings :
    (0x81#8).getLsbD 0 = true ∧ (16 ≠ 1 ∧ 16 ≠ 8 ∧ 16 ≠ 17 ∧ 16 ≠ 24) ∧ 2 ≤ 2 ∧ 2 ^ 8 ≤ 0x100 ∧
      2 ^ 17 ≤ 0x20000 := by decide

theorem witness_RefusalsAtAcceptance :
    (State.reset.phase = .idle ∧ isCommand (.read 0x37#6 0x01#8) = true ∧
      isInit (.read 0x37#6 0x01#8) = false ∧ State.reset.bound = false) ∧
    ((bound []).phase = .idle ∧ (bound []).bound = true) ∧
    ((0x02#8) ≠ 0#8 ∧ [0x00#8].length ≠ (0x02#8).toNat) := by decide

theorem witness_BusyCommandsWait :
    isCommand (.reset 0#6 0#8) = true ∧ (asking []).phase ≠ .idle ∧
      (after (step (asking []))).isSome = true := by decide

theorem witness_AcceptanceLatchesFields :
    (bound []).phase = .idle ∧ (bound []).bound = true ∧ (0x01#8) ≠ 0#8 ∧ (0xFF#8) ≠ 0#8 ∧
      [0x80#8].length = (0x01#8).toNat := by decide

theorem witness_InitBindsAtAcceptance : State.reset.phase = .idle ∧ (bound []).phase = .idle := by decide

/-- The two phases of a write frame, each with each answer. -/
theorem witness_WriteFrameTransfers :
    (running .tAddr .write 0x2A#6 0x01#8 [.given (.ok [])]).phase = .tAddr ∧
    (running .tAddr .write 0x2A#6 0x01#8 [.given (.ok [])]).replies = .given (.ok []) :: [] ∧
    (running .tAddr .write 0x2A#6 0x01#8 [.given .fail]).replies = .given .fail :: [] ∧
    (running .tData .write 0x2A#6 0x01#8 [.given .fail]).phase = .tData ∧
    (running .tData .write 0x2A#6 0x01#8 [.given .fail]).slot = some (writeSlot 0x2A#6 []) ∧
    (running .tData .write 0x2A#6 0x01#8 [.given (.ok [])]).replies = .given (.ok []) :: [] ∧
    (running .tData .write 0x2A#6 0x01#8 [.given .fail]).replies = .given .fail :: [] := by decide

/-- The two phases of a read frame, each with each answer. -/
theorem witness_ReadFrameTransfers :
    (running .tAddr .read 0x37#6 0x01#8 [.given (.ok [])]).phase = .tAddr ∧
    (running .tAddr .read 0x37#6 0x01#8 [.given (.ok [])]).replies = .given (.ok []) :: [] ∧
    (running .tAddr .read 0x37#6 0x01#8 [.given .fail]).replies = .given .fail :: [] ∧
    (running .tData .read 0x37#6 0x01#8 [.given (.ok [0x92#8])]).phase = .tData ∧
    (running .tData .read 0x37#6 0x01#8 [.given (.ok [0x92#8])]).slot = some (readSlot 0x37#6 1 .rbuf) ∧
    [0x92#8].length = (readSlot 0x37#6 1 .rbuf).len ∧
    (running .tData .read 0x37#6 0x01#8 [.given (.ok [0x92#8])]).replies = .given (.ok [0x92#8]) :: [] ∧
    (running .tData .read 0x37#6 0x01#8 [.given .fail]).replies = .given .fail :: [] := by decide

theorem witness_FramesWaitOrStop :
    (asking []).phase = .tAddr ∧ (asking []).replies = [] ∧
    (running .tData .read 0x37#6 0x01#8 []).slot ≠ none ∧
    ((bound []).phase ≠ .tAddr ∧ (bound []).phase ≠ .tData) ∧
    ({ running .tData .read 0x37#6 0x01#8 [] with seq := 1#4 } : State).slot = none := by decide

/-- A shorter and a longer answer than the two bytes asked for, and a longer one where one byte goes to
CUR. -/
theorem witness_ReceiveFitsLength :
    (running .tData .read 0x37#6 0x02#8 [.given (.ok [0x92#8])]).phase = .tData ∧
    (running .tData .read 0x37#6 0x02#8 [.given (.ok [0x92#8])]).slot = some (readSlot 0x37#6 2 .rbuf) ∧
    (running .tData .read 0x37#6 0x02#8 [.given (.ok [0x92#8])]).replies = .given (.ok [0x92#8]) :: [] ∧
    (running .tData .read 0x37#6 0x02#8 [.given (.ok [1#8, 2#8, 3#8])]).replies =
      .given (.ok [1#8, 2#8, 3#8]) :: [] ∧
    (running .tData .setBits 0x14#6 0x03#8 [.given (.ok [1#8, 2#8])]).slot =
      some (readSlot 0x14#6 1 .cur) := by decide

/-- The reference peer with a frame open. -/
def peerAt (p : Phase) (o : Op) (arg : Byte) (v : List Byte) (f : Frame) : State :=
  { running p o 0x14#6 arg [.fromPeer] with wbuf := v, peer := { Peer.reset with frame := f } }

theorem witness_FramesThroughReferencePeer :
    ((peerAt .tAddr .write 1#8 [1#8] .await).replies = .fromPeer :: [] ∧
      (peerAt .tAddr .write 1#8 [1#8] .await).peer.frame = .await) ∧
    ((peerAt .tData .write 1#8 [1#8] (.wr 0x14#6)).slot = some (writeSlot 0x14#6 [1#8]) ∧
      (writeSlot 0x14#6 [1#8]).data = [1#8] ∧ (writeSlot 0x14#6 [1#8, 2#8]).data.length ≠ 1) ∧
    ((peerAt .tData .read 1#8 [] (.rd 0x14#6)).slot = some (readSlot 0x14#6 1 .rbuf) ∧
      (readSlot 0x14#6 1 .rbuf).len = 1 ∧ (readSlot 0x14#6 2 .rbuf).len ≠ 1) := by decide

/-! ### Whole operations: the premises, and the replies of each clause -/

theorem witness_WriteOutcomes :
    Ready (bound [.given (.ok []), .given (.ok [])]) ∧ Ready (bound [.given (.ok []), .given .fail]) ∧
    Ready (bound [.given .fail]) ∧ (bound [.given .fail]).bound = true ∧
    wellFormed (.write 0x2A#6 0x01#8 [0x80#8]) = true :=
  ⟨bound_ready _, bound_ready _, bound_ready _, rfl, rfl⟩

theorem witness_ReadOutcomes :
    Ready (bound [.given (.ok []), .given (.ok [0x92#8])]) ∧ [0x92#8].length = (0x01#8).toNat ∧
    Ready (bound [.given (.ok []), .given .fail]) ∧ Ready (bound [.given .fail]) ∧
    (bound []).bound = true ∧ wellFormed (.read 0x37#6 0x01#8) = true :=
  ⟨bound_ready _, rfl, bound_ready _, bound_ready _, rfl, rfl⟩

/-- The five answer patterns of a read-modify-write (S1 to S5 of R99), for SET_BITS, CLEAR_BITS, ANTENNA_ON
and ANTENNA_OFF alike. -/
theorem witness_SetBitsOutcomes :
    Ready (bound [.given (.ok []), .given (.ok [0x0F#8]), .given (.ok []), .given (.ok [])]) ∧
    Ready (bound [.given (.ok []), .given (.ok [0x0F#8]), .given (.ok []), .given .fail]) ∧
    Ready (bound [.given (.ok []), .given (.ok [0x0F#8]), .given .fail]) ∧
    Ready (bound [.given (.ok []), .given .fail]) ∧ Ready (bound [.given .fail]) ∧
    (bound []).bound = true :=
  ⟨bound_ready _, bound_ready _, bound_ready _, bound_ready _, bound_ready _, rfl⟩

theorem witness_ClearBitsOutcomes (rs : List Reply) : Ready (bound rs) ∧ (bound rs).bound = true :=
  ⟨bound_ready _, rfl⟩

theorem witness_AntennaOnOutcomes :
    Ready (bound [.given (.ok []), .given (.ok [0x80#8]), .given (.ok []), .given (.ok [])]) ∧
    (bound []).bound = true := ⟨bound_ready _, rfl⟩

theorem witness_AntennaOffOutcomes :
    Ready (bound [.given (.ok []), .given (.ok [0x83#8]), .given (.ok []), .given (.ok [])]) ∧
    (bound []).bound = true := ⟨bound_ready _, rfl⟩

theorem witness_ResetOutcomes :
    Ready (bound [.given (.ok []), .given (.ok [])]) ∧ Ready (bound [.given (.ok []), .given .fail]) ∧
    Ready (bound [.given .fail]) ∧ (bound []).bound = true :=
  ⟨bound_ready _, bound_ready _, bound_ready _, rfl⟩

/-- INIT from reset, BOUND = 0, every request answered `ok`. -/
theorem witness_InitTraceWhenAllAnswered :
    ∃ s h : State, Ready s ∧ h = { s with hBus := ⟨1⟩, hPort := ⟨2⟩, hPin := ⟨4⟩, bound := true } ∧
      s.replies = List.replicate 19 (.given (.ok [])) ++ [.given (.ok [0x80#8])] ++
        List.replicate 3 (.given (.ok [])) ++ [.given (.ok [0x92#8])] ++ [] :=
  ⟨{ State.reset with
      replies := List.replicate 19 (.given (.ok [])) ++ [.given (.ok [0x80#8])] ++
        List.replicate 3 (.given (.ok [])) ++ [.given (.ok [0x92#8])] ++ [] },
    _, ⟨rfl, rfl, rfl⟩, rfl, rfl⟩

theorem witness_InitAlwaysCompletesOk :
    ∃ (s : State) (as : List Answer), Ready s ∧ as.length = 24 ∧ s.replies = as.map Reply.given ++ [] :=
  ⟨{ State.reset with replies := (List.replicate 24 Answer.fail).map Reply.given ++ [] },
    List.replicate 24 .fail, ⟨rfl, rfl, rfl⟩, rfl, rfl⟩

theorem witness_CommandsComplete :
    isCommand (.setBits 0x14#6 0x03#8) = true ∧ wellFormed (.setBits 0x14#6 0x03#8) = true ∧
    [Answer.fail, .fail, .fail, .fail].length = 2 * slotCount (opOf (.setBits 0x14#6 0x03#8)) ∧
    (bound ([Answer.fail, .fail, .fail, .fail].map Reply.given ++ [])).bound = true := by decide

theorem witness_StepMachineRefinesPseudocode :
    Pseudo.operation (.write 0x2A#6 0x01#8 [0x80#8]) (bound []).handle [.ok [], .fail] =
      some ⟨[.pin ⟨0⟩ ⟨0⟩ 0#1, .tx ⟨0⟩ [0x54#8] .waitForever (some (.ok [])),
        .tx ⟨0⟩ [0x80#8] .waitForever (some .fail), .pin ⟨0⟩ ⟨0⟩ 1#1], .transferError, [], []⟩ ∧
    wellFormed (.write 0x2A#6 0x01#8 [0x80#8]) = true := by decide

theorem witness_ExpansionsAgree :
    ∃ t t' u v : State, (bound []).cmds = [] ∧ exec (.reset 0#6 0#8) (bound []) = .next t ∧
      exec (.write Config.regCommand 1#8 [Config.valResetCmd]) (bound []) = .next t' ∧
      exec (.antennaOn 0#6 0#8) (bound []) = .next u ∧
      exec (.setBits Config.regTxControl 0x03#8) (bound []) = .next v ∧ run 0 t = .next t :=
  ⟨_, _, _, _, rfl, rfl, rfl, rfl, rfl, rfl⟩

theorem witness_ExpansionsAgree_off :
    ∃ t t' : State, (bound []).cmds = [] ∧ exec (.antennaOff 0#6 0#8) (bound []) = .next t ∧
      exec (.clearBits Config.regTxControl 0x03#8) (bound []) = .next t' ∧ run 0 t = .next t :=
  ⟨_, _, rfl, rfl, rfl, rfl⟩

/-! ### The controller -/

theorem witness_StepRunsDecodedInstruction :
    (bound []).rstNow = false ∧
    (({ bound [] with cmds := [⟨0x0B701#17, noSide⟩] } : State).cmds = ⟨0x0B701#17, noSide⟩ :: [] ∧
      decode (.cmd ⟨0x0B701#17, noSide⟩) = .ok (.read 0x37#6 0x01#8)) ∧
    ((asking []).phase = .tAddr ∧ decode (.frame (asking []).addr) = .ok (.readFrame 0x37#6)) ∧
    ((running .tSel .read 0x37#6 0x01#8 []).slot = some (readSlot 0x37#6 1 .rbuf) ∧
      decode (.pin 0#1) = .ok .select) ∧
    ((running .tDesel .read 0x37#6 0x01#8 []).phase = .tDesel ∧ decode (.pin 1#1) = .ok .deselect) := by
  decide

/-- The step of SEQ as the statement of T_NEXT writes it. -/
def seqAfter (s : State) : Nat :=
  s.seq.toNat + (if s.res = .transferError ∧
      ((s.op = .init ∧ s.seq = 9#4) ∨ (s.seq = 0#4 ∧
        (s.op = .setBits ∨ s.op = .clearBits ∨ s.op = .antennaOn ∨ s.op = .antennaOff)))
    then 2 else 1)

/-- T_NEXT of `op` at slot `q` with this outcome. -/
def nextAt (op : Op) (q : BitVec 4) (r : Result) : State :=
  { running .tNext op 0x05#6 0xF0#8 [] with seq := q, res := r }

/-- Both clauses at the ends of their ranges: SET_BITS slot 0 with either outcome, INIT slots 9 and 11. -/
theorem witness_SlotAdvance :
    (∀ q, (nextAt .init q .ok).rstNow = false ∧ (nextAt .init q .ok).phase = .tNext) ∧
    1 = seqAfter (nextAt .setBits 0#4 .ok) ∧ 1 < slotCount .setBits ∧
    2 = seqAfter (nextAt .setBits 0#4 .transferError) ∧ slotCount .setBits ≤ 2 ∧
    11 = seqAfter (nextAt .init 9#4 .transferError) ∧ 11 < slotCount .init ∧
    12 = seqAfter (nextAt .init 11#4 .transferError) ∧ slotCount .init ≤ 12 := by decide

theorem witness_UnansweredRequestBlocks :
    Inv (asking []) ∧ (asking []).inFlight ≠ none ∧ (asking []).replies = [] ∧
      ∀ b ∈ (asking []).rst.take 3, b = false :=
  ⟨asking_inv [], by decide, rfl, by decide⟩

theorem witness_HardwareReset :
    ({ asking [.given .fail] with rst := [true, false] } : State).rst = true :: [false] ∧
    ({ asking [.given .fail] with rst := [true, false] } : State).inFlight ≠ none ∧
    ({ bound [] with rst := [true] } : State).inFlight = none := by decide

theorem witness_ResetState :
    isInit (.init 0#6 0#8 ⟨0⟩ ⟨0⟩ ⟨0⟩) = true ∧ isCommand (.reset 0#6 0#8) = true ∧
      isInit (.reset 0#6 0#8) = false := by decide

/-- A step from a state in the invariant: an answered address byte. -/
theorem witness_StepKeepsInvariant :
    Inv (asking [.given (.ok [])]) ∧ (asking [.given (.ok [])]).rstNow = false ∧
      (asking [.given (.ok [])]).phase ≠ .idle ∧ ∃ t, step (asking [.given (.ok [])]) = .next t :=
  ⟨asking_inv _, rfl, by decide, _, rfl⟩

theorem witness_OnlySpecifiedStops : Inv (asking [.fromPeer]) ∧ step (asking [.fromPeer]) =
    .refused .peerNoMeaning := ⟨asking_inv _, rfl⟩

/-- An idle state with one command offered, bound or not. -/
def offering (b : Bool) (w : CmdWord) : State := { State.reset with bound := b, cmds := [⟨w, noSide⟩] }

theorem offering_inv (b : Bool) (w : CmdWord) : Inv (offering b w) where
  level := rfl
  bound := fun h => absurd rfl h
  slot := fun h => absurd rfl h
  address := fun h => by cases h
  operands := fun h => absurd rfl h
  result := by simp [offering, State.reset]
  results := by simp [offering, State.reset]
  bracket := rfl
  memory := rfl

/-- Each refusal of R56, from a state in the invariant. -/
theorem witness_OnlySpecifiedStops_refusals :
    (Inv (offering false 0x0B701#17) ∧ step (offering false 0x0B701#17) = .refused .unbound) ∧
    (Inv (offering true 0x0B700#17) ∧ step (offering true 0x0B700#17) = .refused .zeroLength) ∧
    (Inv (offering true 0x0EA01#17) ∧ step (offering true 0x0EA01#17) = .refused .payloadLength) :=
  ⟨⟨offering_inv _ _, rfl⟩, ⟨offering_inv _ _, rfl⟩, ⟨offering_inv _ _, rfl⟩⟩

theorem witness_HandleWrittenOnlyByInit :
    ∃ t, step { State.reset with cmds := [⟨0x00000#17, ⟨⟨1⟩, ⟨2⟩, ⟨4⟩, []⟩⟩] } = .next t ∧ t.bound = true :=
  ⟨_, rfl, rfl⟩

theorem witness_LineFollowsPinEvents :
    ∃ t, step (running .tDesel .read 0x37#6 0x01#8 []) = .next t ∧ t.cs = csInactive := ⟨_, rfl, rfl⟩

theorem witness_RequestsOnlyWhileSelected :
    ∃ t, Inv (asking [.given (.ok [])]) ∧ (asking [.given (.ok [])]).rstNow = false ∧
      step (asking [.given (.ok [])]) = .next t ∧ t.inFlight ≠ none :=
  ⟨_, asking_inv _, rfl, rfl, by decide⟩

theorem witness_SlotIndexOnlyAdvances :
    ∃ t, Inv (asking [.given .fail]) ∧ (asking [.given .fail]).rstNow = false ∧
      (asking [.given .fail]).phase ≠ .idle ∧ step (asking [.given .fail]) = .next t ∧ t.phase ≠ .idle :=
  ⟨_, asking_inv _, rfl, by decide, rfl, by decide⟩

theorem witness_UnusedFieldsHaveNoEffect :
    ∃ t t' : State, (bound []).phase = .idle ∧ exec (.reset 0x00#6 0x00#8) (bound []) = .next t ∧
      exec (.reset 0x0A#6 0xBC#8) (bound []) = .next t' ∧ run 0 t = .next t :=
  ⟨_, _, rfl, rfl, rfl, rfl⟩

theorem witness_ScratchHasNoInfluence :
    ∃ t : State,
      sameButScratch (bound []) { bound [] with cur := 0xFF#8, res := .transferError, rbuf := [1#8] } ∧
      (bound []).phase = .idle ∧ isCommand (.setBits 0x14#6 0x03#8) = true ∧
      exec (.setBits 0x14#6 0x03#8) (bound []) = .next t ∧ run 0 t = .next t :=
  ⟨_, rfl, rfl, rfl, rfl, rfl⟩

/-! ### The reference peer -/

theorem witness_PeerMemoryReadAfterWrite :
    Memory.wf [(0x00, 0x80#8), (0x3F, 0x01#8)] = true ∧ 0x3F < 64 ∧ 0x00 ≠ 0x3F := by decide

theorem witness_PeerAnswers :
    ({ Peer.reset with frame := .await } : Peer).frame = .await ∧
    ({ Peer.reset with frame := .wr 0x37#6, ro := [(0x37#6, 0x92#8)] } : Peer).readOnly 0x37#6 = true ∧
    ({ Peer.reset with frame := .wr 0x36#6, ro := [(0x37#6, 0x92#8)] } : Peer).readOnly 0x36#6 = false ∧
    ({ Peer.reset with frame := .rd 0x37#6 } : Peer).frame = .rd 0x37#6 := by decide

/-- P2 of spec/95_test_vectors.md: the peer holds 0x80 in register 0x14. -/
theorem witness_ReadBackThroughReferencePeer :
    ∃ s : State, Ready s ∧ s.bound = true ∧ s.peer.mem.wf = true ∧ s.peer.readOnly 0x14#6 = false ∧
      s.replies = List.replicate 8 Reply.fromPeer ++ [] ∧
      (0x80#8) = s.peer.mem.read (0x14#6 : RegIndex).toNat :=
  ⟨{ bound (List.replicate 8 .fromPeer ++ []) with peer := { Peer.reset with mem := [(0x14, 0x80#8)] } },
    ⟨rfl, rfl, rfl⟩, rfl, rfl, rfl, rfl, rfl⟩

end Sys2Proof.Tests
end

section
/-! PROOFS. The payload of a read transaction: the bytes a receive answered `ok` delivers, where the
transport's list has any length (R7, R32; log entries 4 and 5). -/

namespace Sys2Proof.Machine

/-- The listed bytes a receive has room for come first, in their order. -/
theorem fitBytes_getElem?_of_listed {n j : Nat} {b : List Byte} (start : Nat) (hb : j < b.length)
    (hn : j < n) : (fitBytes n b start)[j]? = b[j]? := by
  have hj : j < (b.take n).length := by rw [List.length_take]; omega
  rw [fitBytes, List.getElem?_append_left hj, List.getElem?_take_of_lt hn]

/-- A receive answered `ok` by the transport itself, with a list of any length. -/
theorem State.respond_rx_fit {n : Nat} {b : List Byte} {rest : List Reply} {s : State}
    (h : s.replies = .given (.ok b) :: rest) :
    s.respond (.rx n) = .answered (.ok (fitBytes n b s.freeIdx))
      (s.answered (.rx n) (.ok (fitBytes n b s.freeIdx)) s.peer (s.freeIdx + missingBytes n b)) := by
  rw [State.respond, h]
  rfl

/-- A delivery writes RBUF or CUR as its destination says, and nothing else. -/
theorem State.deliver_eq (s : State) (d : Dest) (v : List Byte) :
    s.deliver d v = { s with
      rbuf := if d = .rbuf then v else s.rbuf
      cur := if d = .cur then v.headD s.cur else s.cur } := by
  cases d with
  | rbuf => rfl
  | cur => cases v <;> rfl
  | discard => rfl

/-- T_DATA of a read transaction whose receive the transport itself answers `ok`. -/
theorem receivePayload_fit {sl : Slot} {b : List Byte} {rest : List Reply} {s : State}
    (h : s.replies = .given (.ok b) :: rest) :
    receivePayload sl s = .next (((s.answered (.rx sl.len) (.ok (fitBytes sl.len b s.freeIdx)) s.peer
      (s.freeIdx + missingBytes sl.len b)).deliver sl.dest (fitBytes sl.len b s.freeIdx)).setPhase
        .tDesel) := by
  rw [receivePayload, State.respond_rx_fit h]

/-- In T_DATA a read frame receives the payload of the slot. -/
theorem exec_readFrame_tData {s : State} {sl : Slot} (r : RegIndex) (hp : s.phase = .tData)
    (hs : s.slot = some sl) : exec (.readFrame r) s = receivePayload sl s := by
  simp only [exec, execReadFrame, runFrame, hp, hs]

/-- Settles O18: the bytes delivered are `fitBytes` of the answer's list, and the free bytes it lacks are
the only ones drawn. -/
theorem receiveFitsLength : Obligations.ReceiveFitsLength := by
  intro s r sl b rest hp hs hr
  refine ⟨fitBytes sl.len b s.freeIdx, s.freeIdx + missingBytes sl.len b, fitBytes_length _ _ _,
    fun j hb hn => fitBytes_getElem?_of_listed _ hb hn, ?_⟩
  rw [exec_readFrame_tData r hp hs, receivePayload_fit hr, State.deliver_eq]
  simp [State.answered, State.answerWith, State.setPhase, State.evRx, Request.event, hr]

end Sys2Proof.Machine
end

section
/-! PROOFS. The invariant of Safety: it holds right after reset (R27), and every step keeps it. One lemma for
each thing `step_cases` says a step can do. -/

namespace Sys2Proof.Machine

/-- The address byte of the slot depends on OP, REG and SEQ alone: CUR, ARG and WBUF reach the payload
only. -/
theorem State.slot_addressByte_congr {s t : State} (hop : t.op = s.op) (hreg : t.reg = s.reg)
    (hseq : t.seq = s.seq) : t.slot.map Slot.addressByte = s.slot.map Slot.addressByte := by
  simp only [State.slot, hop, hreg, hseq]
  cases s.op <;> simp only [initSlot, singleSlot, rmwSlot] <;> split <;> rfl

/-- The operand conditions concern OP, ARG and WBUF alone. -/
theorem State.operandsOk_congr {s t : State} (hop : t.op = s.op) (harg : t.arg = s.arg)
    (hwbuf : t.wbuf = s.wbuf) : t.operandsOk = s.operandsOk := by
  simp only [State.operandsOk, hop, harg, hwbuf]

theorem Phase.ne_idle_of_selected {p : Phase} (h : p.selected = true) : p ≠ .idle := by
  rintro rfl
  cases h

/-- The bracket of the trace with one more event. -/
theorem Inv.bracket_snoc {s : State} {p : Phase} {e : Event} {b : Bracket} (h : Inv s) (hp : s.phase = p)
    (he : p.bracket.next e = some b) : Bracket.after .released (s.trace ++ [e]) = some b := by
  rw [Bracket.after_append, h.bracket, hp, Option.bind_some, he]

/-- SEQ after T_NEXT is within its four bits: nothing is lost. -/
theorem seq_advance_toNat {s : State} (h : s.seq.toNat < slotCount s.op) :
    (BitVec.ofNat 4 (s.seq.toNat + seqStep s.op s.seq.toNat s.res)).toNat =
      s.seq.toNat + seqStep s.op s.seq.toNat s.res := by
  have hc := slotCount_le s.op
  have hs := (seqStep_le s.op s.seq.toNat s.res).2
  rw [BitVec.toNat_ofNat, Nat.mod_eq_of_lt (by omega)]

/-- Settles O37. -/
theorem invariantAtReset : Obligations.InvariantAtReset where
  level := rfl
  bound h := absurd rfl h
  slot h := absurd rfl h
  address h := by cases h
  operands h := absurd rfl h
  result := by decide
  results _ hc := by cases hc
  bracket := rfl
  memory := rfl

/-- The invariant does not speak of the inputs of the block. -/
theorem Inv.inputs {s : State} (h : Inv s) (rst : List Bool) (cmds : List Offer) :
    Inv { s with rst := rst, cmds := cmds } :=
  ⟨h.level, h.bound, h.slot, h.address, h.operands, h.result, h.results, h.bracket, h.memory⟩

theorem Inv.afterRst {s : State} (h : Inv s) : Inv s.afterRst := h.inputs s.rst.tail s.cmds

/-- Hardware reset puts the latches back to reset; the record of completions and the peer stay. -/
theorem Inv.hardReset {s : State} (h : Inv s) : Inv s.hardReset where
  level := rfl
  bound hp := absurd rfl hp
  slot hp := absurd rfl hp
  address hp := by cases hp
  operands hp := absurd rfl hp
  result := by simp
  results := h.results
  bracket := rfl
  memory := h.memory

/-- Acceptance, from IDLE to T_SEL, with no event. -/
theorem Inv.accepted {i : Instr} {s t : State} (h : Inv s) (hp : s.phase = .idle) (ha : Accepted i s t) :
    Inv t where
  level := by rw [ha.cs, h.level, ha.phase, hp]; rfl
  bound _ := ha.bound
  slot _ := by rw [ha.seq]; cases t.op <;> decide
  address hs := by rw [ha.phase] at hs; cases hs
  operands _ := ha.operands
  result := by simp [ha.res]
  results := by rw [ha.done]; exact h.results
  bracket := by rw [ha.trace, h.bracket, ha.phase, hp]; rfl
  memory := by rw [ha.peer]; exact h.memory

/-- T_SEL: the slot opens, ADDR takes its address byte and the line goes active. -/
theorem Inv.sel {s : State} {sl : Slot} (h : Inv s) (hp : s.phase = .tSel) (hs : s.slot = some sl) :
    Inv (((s.openSlot sl).pinSet csActive).setPhase .tAddr) := by
  have hi : s.phase ≠ .idle := by simp [hp]
  exact
    { level := rfl
      bound := fun _ => h.bound hi
      slot := fun _ => h.slot hi
      address := fun _ => ⟨sl, by simpa using hs, rfl⟩
      operands := fun _ => h.operands hi
      result := by simp
      results := h.results
      bracket := h.bracket_snoc hp rfl
      memory := h.memory }

/-- A wire frame that answers the request due in the bracket: OP, REG, SEQ and ADDR stay, and so ADDR stays
the slot's address byte, whatever a receive puts into CUR. -/
theorem Inv.frame_of_event {s t : State} {p q : Phase} {e : Event} (h : Inv s) (hk : FrameKeeps s t)
    (hp : s.phase = p) (hq : t.phase = q) (hps : p.selected = true) (hqs : q.selected = true)
    (htr : t.trace = s.trace ++ [e]) (he : p.bracket.next e = some q.bracket) : Inv t := by
  have hs : s.phase.selected = true := by rw [hp, hps]
  have hi : s.phase ≠ .idle := Phase.ne_idle_of_selected hs
  refine
    { level := by rw [hk.cs, h.level, hs, hq, hqs]
      bound := fun _ => hk.bound.trans (h.bound hi)
      slot := fun _ => by rw [hk.seq, hk.op]; exact h.slot hi
      address := fun _ => ?_
      operands := fun _ => (State.operandsOk_congr hk.op hk.arg hk.wbuf).trans (h.operands hi)
      result := hk.result h.result
      results := by rw [hk.done]; exact h.results
      bracket := by rw [htr, hq]; exact h.bracket_snoc hp he
      memory := hk.memory h.memory }
  obtain ⟨sl, hsl, haddr⟩ := h.address hs
  have hmap := State.slot_addressByte_congr hk.op hk.reg hk.seq
  rw [hsl, Option.map_some, Option.map_eq_some_iff] at hmap
  obtain ⟨sl', hsl', haddr'⟩ := hmap
  exact ⟨sl', hsl', by rw [hk.addr, haddr, haddr']⟩

/-- T_ADDR and T_DATA: the block waits, or the address byte fails, or it is answered `ok`, or the payload
transfer is answered. -/
theorem Inv.frame {a : Byte} {s t : State} (h : Inv s) (hk : FrameKeeps s t) (hm : FrameMoves a s t) :
    Inv t := by
  rcases hm with ⟨_, rfl⟩ | ⟨x, hp, htr, ⟨rfl, hq⟩ | ⟨b, rfl, hq⟩⟩ | ⟨sl, x, hp, _, hq, htr | htr⟩
  · exact h
  · exact h.frame_of_event hk hp hq rfl rfl htr rfl
  · exact h.frame_of_event hk hp hq rfl rfl htr rfl
  · exact h.frame_of_event hk hp hq rfl rfl htr rfl
  · exact h.frame_of_event hk hp hq rfl rfl htr rfl

/-- T_DESEL: the line is released and the bracket closed. -/
theorem Inv.desel {s : State} (h : Inv s) (hp : s.phase = .tDesel) :
    Inv ((s.pinSet csInactive).setPhase .tNext) := by
  have hi : s.phase ≠ .idle := by simp [hp]
  exact
    { level := rfl
      bound := fun _ => h.bound hi
      slot := fun _ => h.slot hi
      address := fun hs => by cases hs
      operands := fun _ => h.operands hi
      result := h.result
      results := h.results
      bracket := h.bracket_snoc hp rfl
      memory := h.memory }

/-- T_NEXT: SEQ moves on to a further slot of the operation, or the operation completes with a result that
is no Timeout. -/
theorem Inv.advance {s : State} (h : Inv s) (hp : s.phase = .tNext) : Inv s.advance := by
  have hi : s.phase ≠ .idle := by simp [hp]
  have hl := h.level
  have hb := h.bracket
  rw [hp] at hl hb
  by_cases hn : s.seq.toNat + seqStep s.op s.seq.toNat s.res < slotCount s.op
  · rw [State.advance_of_lt hn]
    exact
      { level := hl
        bound := fun _ => h.bound hi
        slot := fun _ => (seq_advance_toNat (h.slot hi)).trans_lt hn
        address := fun hs => by cases hs
        operands := fun _ => h.operands hi
        result := h.result
        results := h.results
        bracket := hb
        memory := h.memory }
  · rw [State.advance_of_ge (by omega)]
    exact
      { level := hl
        bound := fun hc => absurd rfl hc
        slot := fun hc => absurd rfl hc
        address := fun hs => by cases hs
        operands := fun hc => absurd rfl hc
        result := finalRes_ne h.result
        results := fun c hc => by
          rcases List.mem_append.mp hc with hc | hc
          · exact h.results c hc
          · rw [List.mem_singleton.mp hc]
            exact finalRes_ne h.result
        bracket := hb
        memory := h.memory }

/-- Settles O38, row by row of R96. -/
theorem stepKeepsInvariant : Obligations.StepKeepsInvariant := by
  intro s t hi h
  rcases step_cases h with ⟨_, rfl⟩ | ⟨_, ⟨_, _, rfl⟩ | ⟨hp, o, rest, _, ha⟩ | ⟨hp, sl, hs, rfl⟩ |
    ⟨_, a, hk, hm⟩ | ⟨hp, rfl⟩ | ⟨hp, rfl⟩⟩
  · exact hi.afterRst.hardReset
  · exact hi.afterRst
  · exact Inv.accepted (hi.inputs s.rst.tail rest) hp ha
  · exact hi.afterRst.sel hp hs
  · exact hi.afterRst.frame hk hm
  · exact hi.afterRst.desel hp
  · exact hi.afterRst.advance hp

end Sys2Proof.Machine
end

section
/-! PROOFS. Hardware reset, T_NEXT, and what each single step does to the handle, the line and SEQ. -/

namespace Sys2Proof.Machine

/-! ## Hardware reset -/

theorem State.afterRst_inFlight (s : State) : s.afterRst.inFlight = s.inFlight := rfl

theorem State.afterRst_events (s : State) : s.afterRst.events = s.events := rfl

/-- In IDLE no request is in flight. -/
theorem State.inFlight_idle {s : State} (hp : s.phase = .idle) : s.inFlight = none := by
  simp [State.inFlight, hp]

/-- Right after hardware reset nothing is emitted yet. -/
theorem State.hardReset_events (s : State) : s.hardReset.events = [] := by
  simp [State.events, State.unanswered, State.inFlight_idle (State.hardReset_phase s)]

theorem State.repliesAfterReset_of_inFlight {s : State} (h : s.inFlight ≠ none) :
    s.repliesAfterReset = s.replies.tail := by
  obtain ⟨q, hq⟩ := Option.ne_none_iff_exists'.mp h
  simp [State.repliesAfterReset, hq]

theorem State.repliesAfterReset_of_none {s : State} (h : s.inFlight = none) :
    s.repliesAfterReset = s.replies := by
  simp [State.repliesAfterReset, h]

/-- Settles O35. -/
theorem hardwareReset : Obligations.HardwareReset := by
  intro s later hr
  have hnow : s.rstNow = true := by simp [State.rstNow, hr]
  have hevents : s.afterRst.hardReset.before ++ s.afterRst.hardReset.events = s.before ++ s.events := by
    rw [State.hardReset_events, List.append_nil, State.hardReset_before, State.afterRst_events,
      State.afterRst_before]
  exact ⟨_, step_rst hnow, rfl, rfl, rfl, rfl, hevents, rfl, State.inFlight_idle rfl,
    fun hq => State.repliesAfterReset_of_inFlight (s := s.afterRst) hq,
    fun hq => State.repliesAfterReset_of_none (s := s.afterRst) hq,
    rfl, rfl, rfl, rfl, by simp [hr]⟩

/-! ## T_NEXT -/

/-- The result presented: Ok for INIT, else the outcome of the last slot. -/
theorem finalRes_eq (o : Op) (r : Result) : finalRes o r = if o = .init then .ok else r := by
  cases o <;> rfl

/-- The read slots of the read-modify-writes, as R96 lists them. -/
theorem isRmwRead_iff (o : Op) (q : BitVec 4) : isRmwRead o q.toNat = true ↔
    (o = .init ∧ q = 9#4) ∨
      (q = 0#4 ∧ (o = .setBits ∨ o = .clearBits ∨ o = .antennaOn ∨ o = .antennaOff)) := by
  cases o <;> simp [isRmwRead, ← BitVec.toNat_inj]

/-- By how much SEQ advances, with the failed read slots written out. -/
theorem seqStep_eq (o : Op) (q : BitVec 4) (r : Result) : seqStep o q.toNat r =
    if r = .transferError ∧ ((o = .init ∧ q = 9#4) ∨
      (q = 0#4 ∧ (o = .setBits ∨ o = .clearBits ∨ o = .antennaOn ∨ o = .antennaOff)))
    then 2 else 1 := by
  simp only [seqStep, Bool.and_eq_true, decide_eq_true_eq, isRmwRead_iff, and_comm]

/-- Settles O33. -/
theorem slotAdvance : Obligations.SlotAdvance := by
  intro s n hr hp hn
  rw [← seqStep_eq] at hn
  subst hn
  rw [step_row hr, stepPhase_tNext (s := s.afterRst) hp]
  refine ⟨fun hlt => ?_, fun hge => ?_⟩
  · rw [State.advance_of_lt (s := s.afterRst) hlt]
    rfl
  · rw [State.advance_of_ge (s := s.afterRst) hge]
    simp only [State.complete, State.completion, finalRes_eq]
    rfl

/-! ## The handle -/

/-- Only a word of op code 000 is INIT, and INIT takes the bind operands offered beside the word (R51). -/
theorem decodeCmd_eq_init {w : CmdWord} {side : Side} {r : RegIndex} {a : Byte} {b : BusRef}
    {p : PortRef} {n : PinRef} (h : decodeCmd w side = .init r a b p n) :
    cmdOp w = 0b000#3 ∧ b = side.bus ∧ p = side.port ∧ n = side.pin := by
  unfold decodeCmd at h
  simp only [] at h
  split at h <;> cases h
  exact ⟨BitVec.eq_of_toNat_eq ‹_›, rfl, rfl, rfl⟩

/-- Settles O40: of the rows of R96 only acceptance touches the handle. -/
theorem handleWrittenOnlyByInit : Obligations.HandleWrittenOnlyByInit := by
  intro s t h
  rcases step_cases h with ⟨hr, rfl⟩ | ⟨hr, ⟨_, _, rfl⟩ | ⟨hp, o, rest, hc, ha⟩ | ⟨_, sl, _, rfl⟩ |
    ⟨_, a, hk, _⟩ | ⟨_, rfl⟩ | ⟨_, rfl⟩⟩
  · exact .inr (.inl ⟨hr, rfl⟩)
  · exact .inl ⟨rfl, rfl, rfl, rfl⟩
  · rcases ha.handle with ⟨_, hb, hbus, hport, hpin⟩ | ⟨r, a, hi⟩
    · exact .inl ⟨hbus, hport, hpin, ha.bound.trans hb.symm⟩
    · obtain ⟨hop, hbus, hport, hpin⟩ := decodeCmd_eq_init hi
      exact .inr (.inr ⟨hr, hp, o, rest, hc, hop, hbus, hport, hpin, ha.bound⟩)
  · exact .inl ⟨rfl, rfl, rfl, rfl⟩
  · exact .inl ⟨hk.hBus, hk.hPort, hk.hPin, hk.bound⟩
  · exact .inl ⟨rfl, rfl, rfl, rfl⟩
  · have hk := s.afterRst.advance_keeps
    exact .inl ⟨hk.hBus, hk.hPort, hk.hPin, hk.bound⟩

/-! ## The line -/

/-- A wire frame adds nothing to the trace but transport requests. -/
theorem FrameMoves.requests {a : Byte} {s t : State} (h : FrameMoves a s t) :
    ∃ new, t.trace = s.trace ++ new ∧ ∀ e ∈ new, isRequest e = true := by
  have one : ∀ {e : Event}, isRequest e = true → ∀ e' ∈ [e], isRequest e' = true := fun he e' hm => by
    rw [List.mem_singleton.mp hm, he]
  rcases h with ⟨_, rfl⟩ | ⟨x, _, htr, _⟩ | ⟨sl, x, _, _, _, htr | htr⟩
  · exact ⟨[], (List.append_nil _).symm, fun _ hm => by cases hm⟩
  · exact ⟨_, htr, one rfl⟩
  · exact ⟨_, htr, one rfl⟩
  · exact ⟨_, htr, one rfl⟩

/-- Settles O41: the line is driven in T_SEL and T_DESEL, each with its pin event. -/
theorem lineFollowsPinEvents : Obligations.LineFollowsPinEvents := by
  intro s t h
  have quiet : ∀ {u : State}, u.cs = s.cs → u.trace = s.trace →
      u.cs = s.cs ∧ ∃ new, u.trace = s.trace ++ new ∧ ∀ e ∈ new, isRequest e = true :=
    fun hcs htr => ⟨hcs, [], htr.trans (List.append_nil _).symm, fun _ hm => by cases hm⟩
  rcases step_cases h with ⟨hr, rfl⟩ | ⟨_, ⟨_, _, rfl⟩ | ⟨_, o, rest, _, ha⟩ | ⟨_, sl, _, rfl⟩ |
    ⟨_, a, hk, hm⟩ | ⟨_, rfl⟩ | ⟨_, rfl⟩⟩
  · exact .inl ⟨hr, rfl⟩
  · exact .inr (.inr (quiet rfl rfl))
  · exact .inr (.inr (quiet ha.cs ha.trace))
  · exact .inr (.inl ⟨csActive, rfl, rfl⟩)
  · exact .inr (.inr ⟨hk.cs, hm.requests⟩)
  · exact .inr (.inl ⟨csInactive, rfl, rfl⟩)
  · have hk := s.afterRst.advance_keeps
    exact .inr (.inr (quiet hk.cs hk.trace))

/-! ## SEQ -/

/-- A step inside an operation keeps OP, REG and ARG. -/
theorem step_keeps_operation {s t : State} (hr : s.rstNow = false) (hp : s.phase ≠ .idle)
    (h : step s = .next t) : t.op = s.op ∧ t.reg = s.reg ∧ t.arg = s.arg := by
  rcases step_cases h with ⟨hr', _⟩ | ⟨_, ⟨hp', _⟩ | ⟨hp', _⟩ | ⟨_, sl, _, rfl⟩ | ⟨_, a, hk, _⟩ |
    ⟨_, rfl⟩ | ⟨_, rfl⟩⟩
  · rw [hr] at hr'; cases hr'
  · exact absurd hp' hp
  · exact absurd hp' hp
  · exact ⟨rfl, rfl, rfl⟩
  · exact ⟨hk.op, hk.reg, hk.arg⟩
  · exact ⟨rfl, rfl, rfl⟩
  · have hk := s.afterRst.advance_keeps
    exact ⟨hk.op, hk.reg, hk.arg⟩

/-- A step inside an operation that does not complete it leaves SEQ alone or moves it on by the step of
T_NEXT. -/
theorem step_seq {s t : State} (hi : Inv s) (hr : s.rstNow = false) (hp : s.phase ≠ .idle)
    (h : step s = .next t) (ht : t.phase ≠ .idle) :
    t.seq.toNat = s.seq.toNat ∨ t.seq.toNat = s.seq.toNat + seqStep s.op s.seq.toNat s.res := by
  rcases step_cases h with ⟨hr', _⟩ | ⟨_, ⟨hp', _⟩ | ⟨hp', _⟩ | ⟨_, sl, _, rfl⟩ | ⟨_, a, hk, _⟩ |
    ⟨_, rfl⟩ | ⟨_, rfl⟩⟩
  · rw [hr] at hr'; cases hr'
  · exact absurd hp' hp
  · exact absurd hp' hp
  · exact .inl rfl
  · exact .inl (congrArg BitVec.toNat hk.seq)
  · exact .inl rfl
  · rcases Nat.lt_or_ge (s.seq.toNat + seqStep s.op s.seq.toNat s.res) (slotCount s.op) with hn | hn
    · rw [State.advance_of_lt (s := s.afterRst) hn]
      exact .inr (seq_advance_toNat (hi.slot hp))
    · rw [State.advance_of_ge (s := s.afterRst) hn] at ht
      exact absurd rfl ht

/-- Inside an operation SEQ is at most 11. -/
theorem Inv.seq_le {s : State} (h : Inv s) (hp : s.phase ≠ .idle) : s.seq.toNat ≤ 11 :=
  Nat.le_of_lt_succ ((h.slot hp).trans_le (slotCount_le s.op))

/-- Settles O43: the bound is the invariant's, before the step and after it. -/
theorem slotIndexOnlyAdvances : Obligations.SlotIndexOnlyAdvances := by
  intro s t hi hr hp h
  refine ⟨hi.seq_le hp, fun ht => ?_⟩
  have hseq := step_seq hi hr hp h ht
  have hstep := seqStep_le s.op s.seq.toNat s.res
  exact ⟨by omega, by omega, (stepKeepsInvariant s t hi h).seq_le ht, step_keeps_operation hr hp h⟩

end Sys2Proof.Machine
end

section
/-! PROOFS. The word fields INIT, RESET, ANTENNA_ON and ANTENNA_OFF do not use (R51): a state with other
values in REG and ARG makes the same steps, up to REG and ARG, while one of these operations is latched; and
the next acceptance, like hardware reset, writes both latches. -/

namespace Sys2Proof.Machine

/-- The state with these values in REG and ARG. -/
def State.withOperands (r : RegIndex) (a : Byte) (s : State) : State := { s with reg := r, arg := a }

/-- The slots of the operation read REG or ARG. -/
def Op.usesOperands (o : Op) : Bool :=
  match o with
  | .init => false
  | .reset => false
  | .read => true
  | .write => true
  | .setBits => true
  | .clearBits => true
  | .antennaOn => false
  | .antennaOff => false

/-! ## What the state operations make of other values in REG and ARG -/

theorem State.withOperands_slot {s : State} (ho : s.op.usesOperands = false) (r : RegIndex) (a : Byte) :
    (s.withOperands r a).slot = s.slot := by
  simp only [State.slot, State.withOperands]
  cases hop : s.op
  case read | write | setBits | clearBits =>
    rw [hop] at ho
    cases ho
  all_goals rfl

theorem State.withOperands_inFlight {s : State} (ho : s.op.usesOperands = false) (r : RegIndex)
    (a : Byte) : (s.withOperands r a).inFlight = s.inFlight := by
  simp only [State.inFlight, State.withOperands_slot ho]
  rfl

/-- Hardware reset writes REG and ARG. -/
theorem State.withOperands_hardReset {s : State} (ho : s.op.usesOperands = false) (r : RegIndex)
    (a : Byte) : (s.withOperands r a).hardReset = s.hardReset := by
  simp only [State.hardReset, State.repliesAfterReset, State.events, State.unanswered,
    State.withOperands_inFlight ho]
  rfl

theorem State.withOperands_advance (s : State) (r : RegIndex) (a : Byte) :
    (s.withOperands r a).advance = s.advance.withOperands r a := by
  rcases Nat.lt_or_ge (s.seq.toNat + seqStep s.op s.seq.toNat s.res) (slotCount s.op) with hn | hn
  · rw [State.advance_of_lt hn, State.advance_of_lt (s := s.withOperands r a) hn]
    rfl
  · rw [State.advance_of_ge hn, State.advance_of_ge (s := s.withOperands r a) hn]
    rfl

theorem State.withOperands_deliver (s : State) (r : RegIndex) (a : Byte) (d : Dest) (v : List Byte) :
    (s.withOperands r a).deliver d v = (s.deliver d v).withOperands r a := by
  rw [State.deliver_eq, State.deliver_eq]
  rfl

theorem State.withOperands_spoil (s : State) (r : RegIndex) (a : Byte) (sl : Slot) :
    (s.withOperands r a).spoil sl = (s.spoil sl).withOperands r a := by
  simp only [State.spoil]
  cases sl.dest <;> rfl

/-- The response with the state it carries changed by `f`. -/
def Response.mapState (f : State → State) (x : Response) : Response :=
  match x with
  | .waits => .waits
  | .noMeaning => .noMeaning
  | .answered a s => .answered a (f s)

theorem State.withOperands_respond (s : State) (r : RegIndex) (a : Byte) (q : Request) :
    (s.withOperands r a).respond q = (s.respond q).mapState (State.withOperands r a) := by
  have hreplies : (s.withOperands r a).replies = s.replies := rfl
  have hpeer : (s.withOperands r a).peer = s.peer := rfl
  simp only [State.respond, hreplies, hpeer]
  rcases s.replies with _ | ⟨_ | _, rest⟩
  · rfl
  · rfl
  · rcases s.peer.onRequest q with _ | ⟨p, x⟩ <;> rfl

/-! ## The sub-transfers -/

theorem sendAddress_withOperands (b : Byte) (s : State) (r : RegIndex) (a : Byte) :
    sendAddress b (s.withOperands r a) = mapNext (State.withOperands r a) (sendAddress b s) := by
  simp only [sendAddress, State.withOperands_respond]
  rcases s.respond (.tx [b]) with _ | _ | ⟨_ | _, t⟩ <;> rfl

theorem sendPayload_withOperands (sl : Slot) (s : State) (r : RegIndex) (a : Byte) :
    sendPayload sl (s.withOperands r a) = mapNext (State.withOperands r a) (sendPayload sl s) := by
  simp only [sendPayload, State.withOperands_respond]
  rcases s.respond (.tx sl.data) with _ | _ | ⟨_ | _, t⟩ <;> rfl

theorem receivePayload_withOperands (sl : Slot) (s : State) (r : RegIndex) (a : Byte) :
    receivePayload sl (s.withOperands r a) = mapNext (State.withOperands r a) (receivePayload sl s) := by
  simp only [receivePayload, State.withOperands_respond]
  rcases s.respond (.rx sl.len) with _ | _ | ⟨_ | _, t⟩
  · rfl
  · rfl
  · simp only [Response.mapState, State.withOperands_deliver]
    rfl
  · simp only [Response.mapState, State.withOperands_spoil]
    rfl

theorem runFrame_withOperands {b : Byte} {move : Slot → State → Host.Outcome State Fault Refusal}
    {s : State} (ho : s.op.usesOperands = false) (r : RegIndex) (a : Byte)
    (hm : ∀ sl, move sl (s.withOperands r a) = mapNext (State.withOperands r a) (move sl s)) :
    runFrame b move (s.withOperands r a) = mapNext (State.withOperands r a) (runFrame b move s) := by
  have hphase : (s.withOperands r a).phase = s.phase := rfl
  simp only [runFrame, hphase, State.withOperands_slot ho, sendAddress_withOperands, hm]
  cases s.phase <;> cases s.slot <;> rfl

/-! ## The step -/

/-- The row of T_ADDR and T_DATA. -/
theorem stepFrame_withOperands {s : State} (ho : s.op.usesOperands = false) (r : RegIndex) (a : Byte) :
    stepFrame (s.withOperands r a) = mapNext (State.withOperands r a) (stepFrame s) := by
  have haddr : (s.withOperands r a).addr = s.addr := rfl
  simp only [stepFrame, haddr, decodeFrame]
  cases framePad s.addr
  · cases frameIsRead s.addr
    · exact runFrame_withOperands ho r a fun sl => sendPayload_withOperands sl s r a
    · exact runFrame_withOperands ho r a fun sl => receivePayload_withOperands sl s r a
  · rfl

/-- A row of R96 inside an operation that uses neither field. -/
theorem stepPhase_withOperands {s : State} (ho : s.op.usesOperands = false) (hp : s.phase ≠ .idle)
    (r : RegIndex) (a : Byte) :
    stepPhase (s.withOperands r a) = mapNext (State.withOperands r a) (stepPhase s) := by
  have hphase : (s.withOperands r a).phase = s.phase := rfl
  simp only [stepPhase, hphase]
  cases hq : s.phase
  case idle => exact absurd hq hp
  case tSel =>
    simp only [stepSel, State.withOperands_slot ho]
    cases s.slot <;> rfl
  case tAddr => exact stepFrame_withOperands ho r a
  case tData => exact stepFrame_withOperands ho r a
  case tDesel => rfl
  case tNext => exact congrArg Host.Outcome.next (s.withOperands_advance r a)

/-- In IDLE the next state a command answers is the one it starts in. -/
theorem atPort_started {why : Option Refusal} {started s t : State} (hp : s.phase = .idle)
    (h : atPort why started s = .next t) : t = started := by
  rcases atPort_cases h with ⟨hb, _⟩ | ⟨_, _, ht⟩
  · exact absurd hp hb
  · exact ht

/-- Acceptance writes REG and ARG, whatever they held. -/
theorem exec_withOperands {i : Instr} {s : State} (hc : isCommand i = true) (hp : s.phase = .idle)
    (r : RegIndex) (a : Byte) : exec i (s.withOperands r a) = exec i s := by
  have port : ∀ why started, atPort why started (s.withOperands r a) = atPort why started s := by
    intro why started
    have hphase : (s.withOperands r a).phase = .idle := hp
    simp only [atPort, hphase, hp]
  cases i <;> simp only [exec, execInit, execReset, execRead, execWrite, execSetBits, execClearBits,
    execAntennaOn, execAntennaOff]
  case writeFrame | readFrame | select | deselect => cases hc
  all_goals exact port _ _

/-- A step from other values in REG and ARG: the same next state, or the next state with those values and an
operation that still uses neither. -/
theorem step_withOperands {s t : State} (ho : s.op.usesOperands = false) (h : step s = .next t)
    (r : RegIndex) (a : Byte) : step (s.withOperands r a) = .next t ∨
      (t.op.usesOperands = false ∧ step (s.withOperands r a) = .next (t.withOperands r a)) := by
  cases hr : s.rstNow
  · have hr' : (s.withOperands r a).rstNow = false := hr
    have hrow := h
    rw [step_row hr] at hrow
    rw [step_row hr']
    by_cases hp : s.phase = .idle
    · rcases hc : s.cmds with _ | ⟨o, rest⟩
      · rw [stepPhase_idle_nil (s := s.afterRst) hp hc] at hrow
        cases hrow
        exact .inr ⟨ho, stepPhase_idle_nil hp hc⟩
      · rw [stepPhase_idle_cons (s := s.afterRst) hp hc] at hrow
        rw [stepPhase_idle_cons (s := (s.withOperands r a).afterRst) hp hc]
        exact .inl ((exec_withOperands (s := { s.afterRst with cmds := rest }) (isCommand_decodeCmd _ _)
          hp r a).trans hrow)
    · refine .inr ⟨by rw [(step_keeps_operation hr hp h).1, ho], ?_⟩
      exact (stepPhase_withOperands (s := s.afterRst) ho hp r a).trans (by rw [hrow]; rfl)
  · have hr' : (s.withOperands r a).rstNow = true := hr
    rw [step_rst hr] at h
    cases h
    rw [step_rst hr']
    exact .inl (congrArg Host.Outcome.next (State.withOperands_hardReset (s := s.afterRst) ho r a))

/-- After any number of steps the two runs differ at most in REG and ARG. -/
theorem run_withOperands {k : Nat} {s u : State} (ho : s.op.usesOperands = false)
    (h : run k s = .next u) (r : RegIndex) (a : Byte) :
    ∃ u', run k (s.withOperands r a) = .next u' ∧ u' = u.withOperands u'.reg u'.arg := by
  induction k generalizing s with
  | zero =>
    cases h
    exact ⟨_, rfl, rfl⟩
  | succ k ih =>
    rcases hs : step s with t | _ | _
    · rw [run_succ k hs] at h
      rcases step_withOperands ho hs r a with hs' | ⟨ho', hs'⟩
      · rw [run_succ k hs']
        exact ⟨u, h, rfl⟩
      · rw [run_succ k hs']
        exact ih ho' h
    all_goals
      simp only [run, hs] at h
      cases h

/-- Settles O44: the accepted states differ in REG and ARG alone, and so do the runs from them. -/
theorem unusedFieldsHaveNoEffect : Obligations.UnusedFieldsHaveNoEffect := by
  intro i j s t t' u k r r' a a' bus port pin hij hp hi hj hu
  obtain ⟨ht', ho⟩ : t' = t.withOperands r' a' ∧ t.op.usesOperands = false := by
    rcases hij with ⟨rfl, rfl⟩ | ⟨rfl, rfl⟩ | ⟨rfl, rfl⟩ | ⟨rfl, rfl⟩
    all_goals
      simp only [exec, execInit, execReset, execAntennaOn, execAntennaOff] at hi hj
      rw [atPort_started hp hi, atPort_started hp hj]
      exact ⟨rfl, rfl⟩
  rw [ht']
  exact run_withOperands ho hu r' a'

end Sys2Proof.Machine
end

section
/-! PROOFS. The reference peer (R38): its registers, its answer to each request it gives a meaning, the
requests it gives none, and the wire frames whose requests it answers. -/

namespace Sys2Proof.Machine

/-! ## The registers -/

/-- Settles O46. -/
theorem peerMemoryReadAfterWrite : Obligations.PeerMemoryReadAfterWrite := by
  intro m a b v hm ha
  exact ⟨Memory.write_wf a v ha hm, Memory.read_write_self v hm, fun hb => Memory.read_write_other v hb m⟩

/-! ## The peer's answers -/

@[simp] theorem frameOf_encW (r : RegIndex) : frameOf (encW r) = .wr r := by simp [frameOf]

@[simp] theorem frameOf_encR (r : RegIndex) : frameOf (encR r) = .rd r := by simp [frameOf]

theorem Peer.store_of_readOnly {p : Peer} {i : RegIndex} (h : p.readOnly i = true) (v : Byte) :
    p.store i v = p := by
  rw [Peer.store, if_pos h]

theorem Peer.store_of_writable {p : Peer} {i : RegIndex} (h : p.readOnly i = false) (v : Byte) :
    p.store i v = { p with mem := p.mem.write i.toNat v } := by
  rw [Peer.store, h, if_neg Bool.false_ne_true]

/-- After the line fell, an address byte opens a frame. -/
theorem Peer.onRequest_await {p : Peer} {a : Byte} (hf : p.frame = .await) (ha : framePad a = false) :
    p.onRequest (.tx [a]) = some ({ p with frame := frameOf a }, .ok []) := by
  simp [Peer.onRequest, hf, ha]

/-- In a write frame a transmit of one byte stores it. -/
theorem Peer.onRequest_wr {p : Peer} {i : RegIndex} (hf : p.frame = .wr i) (v : Byte) :
    p.onRequest (.tx [v]) = some (p.store i v, .ok []) := by
  simp [Peer.onRequest, hf]

/-- In a read frame a receive of one byte returns the register. -/
theorem Peer.onRequest_rd {p : Peer} {i : RegIndex} (hf : p.frame = .rd i) :
    p.onRequest (.rx 1) = some (p, .ok [p.mem.read i.toNat]) := by
  simp [Peer.onRequest, hf]

/-- A transmit of any other number of bytes has no meaning in any frame. -/
theorem Peer.onRequest_tx_none {p : Peer} {v : List Byte} (hv : v.length ≠ 1) :
    p.onRequest (.tx v) = none := by
  rcases v with _ | ⟨_, _ | ⟨_, _⟩⟩
  · simp [Peer.onRequest]
  · exact absurd rfl hv
  · simp [Peer.onRequest]

/-- A receive of any other number of bytes has no meaning in any frame. -/
theorem Peer.onRequest_rx_none {p : Peer} {n : Nat} (hn : n ≠ 1) : p.onRequest (.rx n) = none := by
  rcases n with _ | _ | n
  · simp [Peer.onRequest]
  · exact absurd rfl hn
  · simp [Peer.onRequest]

/-- Settles O47. -/
theorem peerAnswers : Obligations.PeerAnswers := by
  intro p r v
  refine ⟨fun hf => ⟨?_, ?_⟩, fun hf hro => ?_, fun hf hro => ?_, Peer.onRequest_rd⟩
  · rw [Peer.onRequest_await hf (framePad_encW r), frameOf_encW]
  · rw [Peer.onRequest_await hf (framePad_encR r), frameOf_encR]
  · rw [Peer.onRequest_wr hf, Peer.store_of_readOnly hro]
  · rw [Peer.onRequest_wr hf, Peer.store_of_writable hro]

/-! ## The wire frames, answered by the peer -/

/-- A request the reference peer gives no meaning. -/
theorem State.respond_noMeaning {q : Request} {rest : List Reply} {s : State}
    (h : s.replies = .fromPeer :: rest) (hp : s.peer.onRequest q = none) : s.respond q = .noMeaning := by
  simp [State.respond, h, hp]

section
variable {s : State} {rest : List Reply} {p : Peer} {b : List Byte} (h : s.replies = .fromPeer :: rest)
include h

theorem sendAddress_peer {a : Byte} (hp : s.peer.onRequest (.tx [a]) = some (p, .ok b)) :
    sendAddress a s = .next { s with
      phase := .tData, replies := rest, trace := s.trace ++ [s.evTx [a] (.ok b)], peer := p } := by
  rw [sendAddress, State.respond_peer h hp]
  simp [State.answerWith, State.setPhase, State.evTx, Request.event, h]

theorem sendPayload_peer {sl : Slot} (hp : s.peer.onRequest (.tx sl.data) = some (p, .ok b)) :
    sendPayload sl s = .next { s with
      phase := .tDesel, replies := rest, trace := s.trace ++ [s.evTx sl.data (.ok b)], peer := p } := by
  rw [sendPayload, State.respond_peer h hp]
  simp [State.answerWith, State.setPhase, State.evTx, Request.event, h]

theorem receivePayload_peer {sl : Slot} (hp : s.peer.onRequest (.rx sl.len) = some (p, .ok b)) :
    receivePayload sl s = .next { s with
      phase := .tDesel, replies := rest, trace := s.trace ++ [s.evRx sl.len (.ok b)], peer := p,
      rbuf := if sl.dest = .rbuf then b else s.rbuf,
      cur := if sl.dest = .cur then b.headD s.cur else s.cur } := by
  rw [receivePayload, State.respond_peer h hp]
  simp [State.deliver_eq, State.answerWith, State.setPhase, State.evRx, Request.event, h]

theorem sendPayload_noMeaning {sl : Slot} (hp : s.peer.onRequest (.tx sl.data) = none) :
    sendPayload sl s = .refused .peerNoMeaning := by
  rw [sendPayload, State.respond_noMeaning h hp]

theorem receivePayload_noMeaning {sl : Slot} (hp : s.peer.onRequest (.rx sl.len) = none) :
    receivePayload sl s = .refused .peerNoMeaning := by
  rw [receivePayload, State.respond_noMeaning h hp]

end

/-- In T_ADDR a write frame transmits its address byte. -/
theorem exec_writeFrame_tAddr {s : State} (r : RegIndex) (hp : s.phase = .tAddr) :
    exec (.writeFrame r) s = sendAddress (encW r) s := by
  simp only [exec, execWriteFrame, runFrame, hp]

/-- In T_ADDR a read frame transmits its address byte. -/
theorem exec_readFrame_tAddr {s : State} (r : RegIndex) (hp : s.phase = .tAddr) :
    exec (.readFrame r) s = sendAddress (encR r) s := by
  simp only [exec, execReadFrame, runFrame, hp]

/-- In T_DATA a write frame transmits the payload of the slot. -/
theorem exec_writeFrame_tData {s : State} {sl : Slot} (r : RegIndex) (hp : s.phase = .tData)
    (hs : s.slot = some sl) : exec (.writeFrame r) s = sendPayload sl s := by
  simp only [exec, execWriteFrame, runFrame, hp, hs]

/-- Settles O19: the frame's request goes to the peer, and its answer is the frame's. -/
theorem framesThroughReferencePeer : Obligations.FramesThroughReferencePeer := by
  intro s r q sl rest hr
  refine ⟨fun hp hf => ⟨?_, ?_⟩, fun hp hs hf => ⟨fun v hv => ?_, fun hl => ?_⟩,
    fun hp hs hf => ⟨fun hl => ?_, fun hl => ?_⟩⟩
  · rw [exec_writeFrame_tAddr r hp, sendAddress_peer hr (Peer.onRequest_await hf (framePad_encW r)),
      frameOf_encW]
  · rw [exec_readFrame_tAddr r hp, sendAddress_peer hr (Peer.onRequest_await hf (framePad_encR r)),
      frameOf_encR]
  · have ha : s.peer.onRequest (.tx sl.data) = some (s.peer.store q v, .ok []) :=
      hv ▸ Peer.onRequest_wr hf v
    rw [exec_writeFrame_tData r hp hs, sendPayload_peer hr ha, hv, Peer.store]
  · rw [exec_writeFrame_tData r hp hs, sendPayload_noMeaning hr (Peer.onRequest_tx_none hl)]
  · have ha : s.peer.onRequest (.rx sl.len) = some (s.peer, .ok [s.peer.mem.read q.toNat]) :=
      hl ▸ Peer.onRequest_rd hf
    rw [exec_readFrame_tData r hp hs, receivePayload_peer hr ha, hl]
    rfl
  · rw [exec_readFrame_tData r hp hs, receivePayload_noMeaning hr (Peer.onRequest_rx_none hl)]

end Sys2Proof.Machine
end

section
/-! PROOFS. Where a step from the invariant stops (R56, R38), and what it adds to the record of answered
events (R84). -/

namespace Sys2Proof.Machine

/-! ## Stops at the command port -/

/-- Refusal (a) of R56. -/
theorem exec_unbound {i : Instr} {s : State} (hc : isCommand i = true) (hp : s.phase = .idle)
    (hi : isInit i = false) (hb : s.bound = false) : exec i s = .refused .unbound := by
  have port : ∀ started : State, atPort (some .unbound) started s = .refused .unbound := by
    intro started
    rw [atPort, hp]
  cases i
  case init => cases hi
  case writeFrame | readFrame | select | deselect => cases hc
  all_goals
    simp only [exec, execReset, execRead, execWrite, execSetBits, execClearBits, execAntennaOn,
      execAntennaOff, whyUnbound, whyRead, whyWrite, hb, Bool.false_eq_true, if_false]
    exact port _

/-- Refusals (b) and (c) of R56. -/
theorem exec_illFormed {i : Instr} {s : State} (hp : s.phase = .idle) (hb : s.bound = true)
    (hw : wellFormed i = false) :
    exec i s = .refused .zeroLength ∨ exec i s = .refused .payloadLength := by
  cases i
  case read r len =>
    have hl : lengthOk len = false := hw
    left
    simp [exec, execRead, atPort, hp, whyRead, hb, hl]
  case write r len v =>
    cases hl : lengthOk len
    · left
      simp [exec, execWrite, atPort, hp, whyWrite, hb, hl]
    · have hv : payloadOk len v = false := by simpa [wellFormed, hl] using hw
      right
      simp [exec, execWrite, atPort, hp, whyWrite, hb, hl, hv]
  all_goals cases hw

/-- A command in IDLE starts, or is refused for one of the reasons of R56. -/
theorem exec_command_stops {i : Instr} {s : State} (hc : isCommand i = true) (hp : s.phase = .idle) :
    (∃ t, exec i s = .next t) ∨ ∃ r, exec i s = .refused r ∧
      ((r = .unbound ∧ isInit i = false ∧ s.bound = false) ∨
        ((r = .zeroLength ∨ r = .payloadLength) ∧ wellFormed i = false)) := by
  cases hw : wellFormed i
  case true =>
    cases hi : isInit i
    case true => exact .inl (exec_starts hc hp hw (.inl hi))
    case false =>
      cases hb : s.bound
      case true => exact .inl (exec_starts hc hp hw (.inr hb))
      case false => exact .inr ⟨_, exec_unbound hc hp hi hb, .inl ⟨rfl, rfl, rfl⟩⟩
  case false =>
    cases hb : s.bound
    case true =>
      rcases exec_illFormed hp hb hw with h | h
      · exact .inr ⟨_, h, .inr ⟨.inl rfl, rfl⟩⟩
      · exact .inr ⟨_, h, .inr ⟨.inr rfl, rfl⟩⟩
    case false =>
      have hi : isInit i = false := by
        cases i
        case init => cases hw
        all_goals rfl
      exact .inr ⟨_, exec_unbound hc hp hi hb, .inl ⟨rfl, hi, rfl⟩⟩

/-! ## Stops of a sub-transfer -/

/-- The outcome of asking `q` is a next state, or the refusal of a request the reference peer was asked and
gives no meaning. -/
def NextOrNoMeaning (q : Request) (s : State) (o : Host.Outcome State Fault Refusal) : Prop :=
  (∃ t, o = .next t) ∨
  (∃ rest, s.replies = .fromPeer :: rest ∧ s.peer.onRequest q = none ∧ o = .refused .peerNoMeaning)

/-- A sub-transfer stops only on `noMeaning`. -/
theorem nextOrNoMeaning_of_respond {q : Request} {s : State} {o : Host.Outcome State Fault Refusal}
    (hw : s.respond q = .waits → o = .next s)
    (hn : s.respond q = .noMeaning → o = .refused .peerNoMeaning)
    (ha : ∀ a u, s.respond q = .answered a u → ∃ t, o = .next t) : NextOrNoMeaning q s o := by
  rcases State.respond_cases q s with ⟨_, hr⟩ | ⟨rest, hrep, hnone, hr⟩ | ⟨a, p, n, _, hr, _⟩
  · exact .inl ⟨s, hw hr⟩
  · exact .inr ⟨rest, hrep, hnone, hn hr⟩
  · exact .inl (ha _ _ hr)

theorem sendAddress_stops (a : Byte) (s : State) : NextOrNoMeaning (.tx [a]) s (sendAddress a s) := by
  refine nextOrNoMeaning_of_respond (fun h => ?_) (fun h => ?_) (fun x u h => ?_) <;>
    rw [sendAddress, h]
  cases x <;> exact ⟨_, rfl⟩

theorem sendPayload_stops (sl : Slot) (s : State) :
    NextOrNoMeaning (.tx sl.data) s (sendPayload sl s) := by
  refine nextOrNoMeaning_of_respond (fun h => ?_) (fun h => ?_) (fun x u h => ?_) <;>
    rw [sendPayload, h]
  cases x <;> exact ⟨_, rfl⟩

theorem receivePayload_stops (sl : Slot) (s : State) :
    NextOrNoMeaning (.rx sl.len) s (receivePayload sl s) := by
  refine nextOrNoMeaning_of_respond (fun h => ?_) (fun h => ?_) (fun x u h => ?_) <;>
    rw [receivePayload, h]
  cases x <;> exact ⟨_, rfl⟩

/-- T_ADDR and T_DATA from the invariant, where ADDR holds the address byte of the slot. -/
theorem Inv.stepPhase_frame {s : State} (h : Inv s) (hp : s.phase = .tAddr ∨ s.phase = .tData) :
    ∃ q, s.inFlight = some q ∧ NextOrNoMeaning q s (stepPhase s) := by
  rcases hp with hp | hp
  · obtain ⟨sl, _, ha⟩ := h.address (by rw [hp]; rfl)
    rw [stepPhase_tAddr hp ha, ← ha]
    exact ⟨.tx [s.addr], by simp only [State.inFlight, hp], sendAddress_stops _ s⟩
  · obtain ⟨sl, hs, ha⟩ := h.address (by rw [hp]; rfl)
    rw [stepPhase_tData hp hs ha]
    simp only [State.inFlight, hp, hs, movePayload]
    cases sl.kind
    · exact ⟨_, rfl, sendPayload_stops sl s⟩
    · exact ⟨_, rfl, receivePayload_stops sl s⟩

/-- Settles O39, row by row of R96. -/
theorem onlySpecifiedStops : Obligations.OnlySpecifiedStops := by
  intro s hi
  cases hr : s.rstNow
  case true => exact .inl ⟨_, step_rst hr⟩
  case false =>
    rw [step_row hr]
    have frame : s.phase = .tAddr ∨ s.phase = .tData → (∃ t, stepPhase s.afterRst = .next t) ∨
        ∃ q rest, s.inFlight = some q ∧ s.replies = .fromPeer :: rest ∧ s.peer.onRequest q = none ∧
          stepPhase s.afterRst = .refused .peerNoMeaning := by
      intro hp
      obtain ⟨q, hq, ht | ⟨rest, hrep, hnone, href⟩⟩ := hi.afterRst.stepPhase_frame hp
      · exact .inl ht
      · exact .inr ⟨q, rest, hq, hrep, hnone, href⟩
    cases hp : s.phase
    case idle =>
      rcases hc : s.cmds with _ | ⟨o, rest⟩
      · exact .inl ⟨_, stepPhase_idle_nil (s := s.afterRst) hp hc⟩
      · rw [stepPhase_idle_cons (s := s.afterRst) hp hc]
        rcases exec_command_stops (s := { s.afterRst with cmds := rest })
          (isCommand_decodeCmd o.word o.side) hp with ht | ⟨r, href, hwhy⟩
        · exact .inl ht
        · exact .inr (.inl ⟨rfl, o, rest, r, rfl, href, hwhy⟩)
    case tSel =>
      obtain ⟨sl, hs⟩ := State.slot_of_lt (hi.slot (by rw [hp]; decide))
      exact .inl ⟨_, stepPhase_tSel (s := s.afterRst) hp hs⟩
    case tAddr => exact (frame (.inl hp)).imp_right .inr
    case tData => exact (frame (.inr hp)).imp_right .inr
    case tDesel => exact .inl ⟨_, stepPhase_tDesel (s := s.afterRst) hp⟩
    case tNext => exact .inl ⟨_, stepPhase_tNext (s := s.afterRst) hp⟩

/-! ## The record of answered events -/

/-- A wire frame adds at most one event to the trace. -/
theorem FrameMoves.trace {a : Byte} {s t : State} (h : FrameMoves a s t) :
    t.trace = s.trace ∨ ∃ e, t.trace = s.trace ++ [e] := by
  rcases h with ⟨_, rfl⟩ | ⟨x, _, htr, _⟩ | ⟨sl, x, _, _, _, htr | htr⟩
  · exact .inl rfl
  · exact .inr ⟨_, htr⟩
  · exact .inr ⟨_, htr⟩
  · exact .inr ⟨_, htr⟩

/-- Without hardware reset a step adds at most one event to the trace, and a request only in a phase in which
the chip is selected. -/
theorem step_trace {s t : State} (hr : s.rstNow = false) (h : step s = .next t) :
    t.trace = s.trace ∨
      ∃ e, t.trace = s.trace ++ [e] ∧ (isRequest e = true → s.phase.selected = true) := by
  rcases step_cases h with ⟨hr', _⟩ | ⟨_, ⟨_, _, rfl⟩ | ⟨_, o, rest, _, ha⟩ | ⟨_, sl, _, rfl⟩ |
    ⟨hp, a, _, hm⟩ | ⟨_, rfl⟩ | ⟨_, rfl⟩⟩
  · rw [hr] at hr'; cases hr'
  · exact .inl rfl
  · exact .inl ha.trace
  · exact .inr ⟨_, rfl, fun hq => by cases hq⟩
  · have hs : s.phase.selected = true := by rcases hp with hp | hp <;> rw [hp] <;> rfl
    exact hm.trace.imp_right fun ⟨e, he⟩ => ⟨e, he, fun _ => hs⟩
  · exact .inr ⟨_, rfl, fun hq => by cases hq⟩
  · exact .inl s.afterRst.advance_keeps.trace

/-- Where the chip is selected, the line is low. -/
theorem Inv.cs_of_selected {s : State} (h : Inv s) (hs : s.phase.selected = true) : s.cs = 0#1 := by
  rw [h.level, if_pos hs]
  rfl

/-- Settles O42: the request answered is one of a selected phase before the step, the request in flight is
one of a selected phase after it, and both states are in the invariant. -/
theorem requestsOnlyWhileSelected : Obligations.RequestsOnlyWhileSelected := by
  intro s t hi hr h
  refine ⟨?_, fun hf => (stepKeepsInvariant s t hi h).cs_of_selected (State.selected_of_inFlight hf)⟩
  rcases step_trace hr h with htr | ⟨e, htr, he⟩
  · exact ⟨[], by rw [htr, List.append_nil], Nat.zero_le 1, fun _ hm => by cases hm⟩
  · refine ⟨[e], htr, le_refl 1, fun e' hm hq => hi.cs_of_selected (he ?_)⟩
    rwa [← List.mem_singleton.mp hm]

end Sys2Proof.Machine
end

section
/-! PROOFS. Decoding and encoding (R50 to R55, R59): each is the other's inverse, and the encodings with no
meaning are rejected. -/

namespace Sys2Proof

/-! ## Command words -/

/-- Every value of the op field is the code of an operation (R52). -/
theorem Machine.Op.exists_code (op : BitVec 3) : ∃ o : Machine.Op, o.code = op := by
  obtain ⟨n, hn⟩ := op
  interval_cases n
  exacts [⟨.init, rfl⟩, ⟨.reset, rfl⟩, ⟨.read, rfl⟩, ⟨.write, rfl⟩, ⟨.setBits, rfl⟩, ⟨.clearBits, rfl⟩,
    ⟨.antennaOn, rfl⟩, ⟨.antennaOff, rfl⟩]

/-- A command is encoded as the word of its op code, with some fields and side operands. -/
theorem encode_command {i : Instr} (hc : Machine.isCommand i = true) :
    ∃ reg arg side, encode i = .cmd ⟨cmdWord (Machine.opOf i).code reg arg, side⟩ := by
  cases i
  case writeFrame | readFrame | select | deselect => cases hc
  all_goals exact ⟨_, _, _, rfl⟩

/-- Encoding a decoded command word gives the word back. -/
theorem encode_decodeCmd (w : CmdWord) (side : Side) :
    ∃ side', encode (decodeCmd w side) = .cmd ⟨w, side'⟩ := by
  obtain ⟨o, ho⟩ := Machine.Op.exists_code (cmdOp w)
  rw [← cmdWord_fields w, ← ho]
  generalize cmdReg w = reg, cmdArg w = arg
  cases o <;> simp [decodeCmd, Machine.Op.code, encode]

/-! ## Address bytes and pin levels -/

/-- Encoding a decoded address byte gives the byte back. -/
theorem encode_of_decodeFrame {a : Byte} {i : Instr} (h : decodeFrame a = .ok i) :
    encode i = .frame a := by
  unfold decodeFrame at h
  split at h
  case isTrue => cases h
  case isFalse hpad =>
    have hfields := frame_fields a (Bool.eq_false_iff.mpr hpad)
    split at h <;> rename_i hread <;> cases h
    · rw [if_pos hread] at hfields
      exact congrArg Encoded.frame hfields
    · rw [if_neg hread] at hfields
      exact congrArg Encoded.frame hfields

theorem encode_decodePin (l : Level) : encode (decodePin l) = .pin l := by
  rcases BitVec.eq_zero_or_eq_one l with rfl | rfl <;> rfl

theorem decodeFrame_of_pad {a : Byte} (h : framePad a = true) : decodeFrame a = .error .padBitSet := by
  rw [decodeFrame, if_pos h]

/-! ## The decoder and the encoder -/

/-- Decoding an encoded instruction gives it back, whether the block gives it a meaning or not. -/
theorem decode_encode (i : Instr) : decode (encode i) = .ok i := by
  cases i
  case writeFrame reg =>
    rw [encode, ← Machine.encW_eq_concat]
    exact decodeFrame_encW reg
  case readFrame reg =>
    rw [encode, ← Machine.encR_eq_concat]
    exact decodeFrame_encR reg
  case select => rfl
  case deselect => rfl
  all_goals simp [encode, decode, decodeCmd]

/-- Settles O1; well-formedness is not needed. -/
theorem decodeEncodeAgree : Obligations.DecodeEncodeAgree :=
  fun i _ => decode_encode i

/-- Settles O2. -/
theorem encodeDecodeAgree : Obligations.EncodeDecodeAgree :=
  ⟨encode_decodeCmd, fun _ _ => encode_of_decodeFrame, encode_decodePin⟩

/-- Settles O4. -/
theorem opCodesOfCommands : Obligations.OpCodesOfCommands := by
  intro i hc
  obtain ⟨reg, arg, side, he⟩ := encode_command hc
  exact ⟨_, he, cmdOp_cmdWord _ reg arg⟩

/-! ## Table words with no meaning (log entry 10) -/

theorem decodeTableWord_of_error {n w : Nat} {e : DecodeError} (h : tableEncoded n w = .error e) :
    decodeTableWord n w = none := by
  rw [decodeTableWord, h]

theorem tableEncoded_noSuchWidth {n : Nat} (w : Nat) (h1 : n ≠ 1) (h8 : n ≠ 8) (h17 : n ≠ 17)
    (h24 : n ≠ 24) : tableEncoded n w = .error .noSuchWidth := by
  simp [tableEncoded, h1, h8, h17, h24]

theorem tableEncoded_pin_above {w : Nat} (h : 2 ≤ w) : tableEncoded 1 w = .error .bitsAboveFormat := by
  have hw : ¬ w ≤ 1 := by omega
  simp [tableEncoded, hw]

theorem tableEncoded_frame_above {w : Nat} (h : 2 ^ 8 ≤ w) :
    tableEncoded 8 w = .error .bitsAboveFormat := by
  have hpin : ¬ w ≤ 1 := by omega
  have hw : ¬ w < 256 := by omega
  simp [tableEncoded, hpin, hw]

theorem tableEncoded_cmd_above {n w : Nat} (hn : n = 17 ∨ n = 24) (h : 2 ^ 17 ≤ w) :
    tableEncoded n w = .error .bitsAboveFormat := by
  have hw : ¬ w < 131072 := by omega
  rcases hn with rfl | rfl <;> simp [tableEncoded, hw]

/-- Settles O8. -/
theorem rejectedEncodings : Obligations.RejectedEncodings := by
  have rejected : ∀ {n w e}, tableEncoded n w = .error e →
      tableEncoded n w = .error e ∧ decodeTableWord n w = none :=
    fun h => ⟨h, decodeTableWord_of_error h⟩
  exact ⟨fun _ => decodeFrame_of_pad,
    fun _ w h1 h8 h17 h24 => rejected (tableEncoded_noSuchWidth w h1 h8 h17 h24),
    fun _ h => rejected (tableEncoded_pin_above h),
    fun _ h => rejected (tableEncoded_frame_above h),
    fun _ h => rejected (tableEncoded_cmd_above (.inl rfl) h),
    fun _ h => rejected (tableEncoded_cmd_above (.inr rfl) h)⟩

end Sys2Proof
end

section
/-! PROOFS. The command port (R56): what each command's acceptance writes, what is refused there and what
waits. -/

namespace Sys2Proof.Machine

/-! ## The acceptance tests -/

theorem lengthOk_iff {len : Byte} : lengthOk len = true ↔ len ≠ 0#8 := by simp [lengthOk]

theorem payloadOk_iff {len : Byte} {v : List Byte} : payloadOk len v = true ↔ v.length = len.toNat := by
  simp [payloadOk]

theorem whyUnbound_of_bound {s : State} (hb : s.bound = true) : whyUnbound s = none := by
  simp [whyUnbound, hb]

theorem whyRead_of_bound {len : Byte} {s : State} (hb : s.bound = true) :
    whyRead len s = if len ≠ 0#8 then none else some .zeroLength := by
  simp only [whyRead, hb, if_true, lengthOk_iff]

theorem whyWrite_of_bound {len : Byte} {v : List Byte} {s : State} (hb : s.bound = true) :
    whyWrite len v s =
      if len ≠ 0#8 then if v.length = len.toNat then none else some .payloadLength
      else some .zeroLength := by
  simp only [whyWrite, hb, if_true, lengthOk_iff, payloadOk_iff]

/-! ## Refused, accepted, or waiting -/

/-- In IDLE a command with a reason to refuse it is refused. -/
theorem atPort_refused {r : Refusal} {started s : State} (hp : s.phase = .idle) :
    atPort (some r) started s = .refused r := by
  simp [atPort, hp]

/-- A command with no reason to refuse it starts from IDLE. -/
theorem atPort_accepts {why : Option Refusal} {started s : State} (hp : s.phase = .idle)
    (hw : why = none) : atPort why started s = .next started := by
  rw [hw, atPort_idle hp]

/-- Settles O11. -/
theorem refusalsAtAcceptance : Obligations.RefusalsAtAcceptance := by
  refine ⟨fun i s hp hc hi hb => exec_unbound hc hp hi hb, fun r s hp hb => ?_, fun r v s hp hb => ?_,
    fun r len v s hp hb hlen hv => ?_⟩
  · rw [exec, execRead, whyRead_of_bound hb]
    exact atPort_refused hp
  · rw [exec, execWrite, whyWrite_of_bound hb]
    exact atPort_refused hp
  · rw [exec, execWrite, whyWrite_of_bound hb, if_pos hlen, if_neg hv]
    exact atPort_refused hp

/-- Settles O13: each command's test passes, and the state it starts in is the one stated. -/
theorem acceptanceLatchesFields : Obligations.AcceptanceLatchesFields := by
  intro s r a hp hb
  have hu := whyUnbound_of_bound hb
  refine ⟨atPort_accepts hp hu, atPort_accepts hp hu, atPort_accepts hp hu, atPort_accepts hp hu,
    atPort_accepts hp hu, fun ha => atPort_accepts hp ?_, fun v ha hv => atPort_accepts hp ?_⟩
  · rw [whyRead_of_bound hb, if_pos ha]
  · rw [whyWrite_of_bound hb, if_pos ha, if_pos hv]

/-- Outside IDLE a command waits. -/
theorem exec_busy {i : Instr} {s : State} (hc : isCommand i = true) (hp : s.phase ≠ .idle) :
    exec i s = .next s := by
  cases i
  case writeFrame | readFrame | select | deselect => cases hc
  all_goals
    rw [exec]
    exact atPort_busy hp

/-- Outside IDLE no step touches the command port. -/
theorem step_cmds {s t : State} (hp : s.phase ≠ .idle) (h : step s = .next t) : t.cmds = s.cmds := by
  rcases step_cases h with ⟨_, rfl⟩ | ⟨_, ⟨hi, _⟩ | ⟨hi, _⟩ | ⟨_, sl, _, rfl⟩ | ⟨_, a, hk, _⟩ |
    ⟨_, rfl⟩ | ⟨_, rfl⟩⟩
  · rfl
  · exact absurd hi hp
  · exact absurd hi hp
  · rfl
  · exact hk.cmds
  · rfl
  · exact s.afterRst.advance_keeps.cmds

/-- Settles O12. -/
theorem busyCommandsWait : Obligations.BusyCommandsWait :=
  ⟨fun _ _ => exec_busy, fun _ _ => step_cmds⟩

end Sys2Proof.Machine
end

section
/-! PROOFS. An operation whose requests are all answered runs to its completion (R57, R97): an induction over
the slots still to come, each at most four steps of R96 and one at T_NEXT. -/

namespace Sys2Proof.Machine

/-- The operation in progress in `s` has completed in `u`, with at most four more events for each of `n`
slots. -/
structure Completes (n : Nat) (s u : State) : Prop where
  ready  : Ready u
  result : u.res ≠ .timeout
  done   : ∃ rbuf, u.done = s.done ++ [⟨s.op, u.res, rbuf⟩]
  events : ∃ new, u.trace = s.trace ++ new ∧ new.length ≤ 4 * n

/-- A slot before the ones that complete. -/
theorem Completes.cons {n : Nat} {s t u : State} {es : List Event} (h : Completes n t u)
    (hop : t.op = s.op) (hdone : t.done = s.done) (htr : t.trace = s.trace ++ es) (hes : es.length ≤ 4) :
    Completes (n + 1) s u := by
  obtain ⟨rbuf, hd⟩ := h.done
  obtain ⟨new, hnew, hlen⟩ := h.events
  refine ⟨h.ready, h.result, ⟨rbuf, by rw [hd, hdone, hop]⟩, es ++ new, ?_, ?_⟩
  · rw [hnew, htr, List.append_assoc]
  · rw [List.length_append]
    omega

/-- Completion after the last slot. -/
theorem SlotDone.completes {n : Nat} {s t : State} {es : List Event} (hd : SlotDone s t)
    (hlast : slotCount t.op ≤ t.seq.toNat + seqStep t.op t.seq.toNat t.res)
    (htr : t.trace = s.trace ++ es) (hes : es.length ≤ 4) : Completes (n + 1) s t.advance := by
  rw [State.advance_of_ge hlast]
  exact
    { ready := ⟨rfl, hd.level, hd.noRst⟩
      result := finalRes_ne hd.result
      done := ⟨_, by rw [State.complete_done, hd.done, ← hd.op]; rfl⟩
      events := ⟨es, htr, by omega⟩ }

/-- From T_SEL an operation with at most `n` slots to come completes, where the transport answers two
requests for each. -/
theorem run_completes {n : Nat} {s : State} {as : List Answer} {rest : List Reply}
    (hp : s.phase = .tSel) (hr : s.rst = []) (hs : s.seq.toNat < slotCount s.op)
    (hn : slotCount s.op ≤ s.seq.toNat + n) (hlen : 2 * n ≤ as.length)
    (hq : s.replies = as.map Reply.given ++ rest) : ∃ k u, run k s = .next u ∧ Completes n s u := by
  induction n generalizing s as with
  | zero => omega
  | succ n ih =>
    obtain ⟨a₁, a₂, as, rfl⟩ : ∃ a₁ a₂ as', as = a₁ :: a₂ :: as' := by
      have htwo : 2 ≤ as.length := by omega
      rcases as with _ | ⟨a₁, _ | ⟨a₂, as⟩⟩
      · simp at htwo
      · simp at htwo
      · exact ⟨a₁, a₂, as, rfl⟩
    simp only [List.length_cons] at hlen
    obtain ⟨sl, hsl⟩ := State.slot_of_lt hs
    obtain ⟨k, t, es, as', -, hrun, hd, htr, -, hes, -, hq', hlen'⟩ :=
      (AtSlot.mk hp hr hsl).completes hq
    have hstep := (run_add 1 hrun).trans (run_succ 0 (step_next hd.phase hd.noRst))
    have hseq := (seqStep_le t.op t.seq.toNat t.res).1
    rcases Nat.lt_or_ge (t.seq.toNat + seqStep t.op t.seq.toNat t.res) (slotCount t.op) with hlt | hge
    · have hts : t.seq.toNat < slotCount t.op := by rw [hd.seq, hd.op]; exact hs
      have hsn := seq_advance_toNat hts
      have hleft : slotCount t.op ≤ (BitVec.ofNat 4
          (t.seq.toNat + seqStep t.op t.seq.toNat t.res)).toNat + n := by
        rw [← hd.seq, ← hd.op] at hn
        omega
      rw [State.advance_of_lt hlt] at hstep
      obtain ⟨j, u, hj, hc⟩ := ih (s := { t with seq := _, phase := .tSel }) rfl hd.noRst
        (hsn.trans_lt hlt) hleft (by omega) hq'
      exact ⟨_, u, (run_add j hstep).trans hj, hc.cons hd.op hd.done htr hes⟩
    · exact ⟨_, _, hstep, hd.completes hge htr hes⟩

/-- Settles O29: the command is accepted into T_SEL with SEQ 0, and runs on from there. -/
theorem commandsComplete : Obligations.CommandsComplete := by
  intro i s as rest hr hc hw hb hlen hq
  obtain ⟨t, ht⟩ := exec_starts hc hr.idle hw hb
  have ha := exec_accepted hc hr.idle ht
  have hseq : t.seq.toNat = 0 := by rw [ha.seq]; rfl
  have hslots : 0 < slotCount (opOf i) := by cases opOf i <;> decide
  obtain ⟨k, u, hk, hu⟩ := run_completes (n := slotCount (opOf i)) ha.phase (ha.rst.trans hr.noRst)
    (by rw [hseq, ha.op]; exact hslots) (by rw [hseq, ha.op]; omega) hlen.ge (ha.replies.trans hq)
  obtain ⟨rbuf, hdone⟩ := hu.done
  obtain ⟨new, hnew, hbound⟩ := hu.events
  rw [ha.done, ha.op] at hdone
  rw [ha.trace] at hnew
  exact ⟨t, u, k, new, u.res, rbuf, ht, hk, hu.ready, hdone, rfl, hu.result, hnew, hbound⟩

end Sys2Proof.Machine
end

section
/-! PROOFS. The register address encoder (R70 to R73): its formulas and bounds, the properties of its two
ranges, and the decoding of an address byte. -/

namespace Sys2Proof

/-! ## The encoders as numbers (R70, R71) -/

theorem Machine.toNat_encW (r : RegIndex) : (Machine.encW r).toNat = 2 * r.toNat := by
  rw [Machine.encW_eq_concat, BitVec.toNat_append, BitVec.toNat_append]
  simp [Nat.shiftLeft_eq, Nat.mul_comm]

theorem Machine.toNat_encW_lt (r : RegIndex) : (Machine.encW r).toNat < 0x80 := by
  rw [Machine.toNat_encW]
  omega

/-- `enc_r(r) = enc_w(r) | 0x80`, the second line of R71. -/
theorem Machine.encR_eq_or (r : RegIndex) : Machine.encR r = Machine.encW r ||| 0x80#8 := rfl

/-- The mask 0x7E of R70 clears bit 7, so the `|` of R71 never meets a bit already set and adds 0x80. -/
theorem Machine.encR_eq_add (r : RegIndex) : Machine.encR r = Machine.encW r + 0x80#8 := by
  have hmask : Machine.encW r &&& 0x80#8 = 0#8 := by
    rw [Machine.encW, BitVec.and_assoc]
    exact BitVec.and_zero
  rw [BitVec.add_eq_or_of_and_eq_zero _ _ hmask, Machine.encR_eq_or]

theorem Machine.toNat_encR (r : RegIndex) : (Machine.encR r).toNat = 2 * r.toNat + 0x80 := by
  rw [Machine.encR_eq_add, BitVec.toNat_add_of_lt, Machine.toNat_encW]
  · rfl
  · exact Nat.add_lt_add_right (Machine.toNat_encW_lt r) 0x80

/-- Settles O5. -/
theorem addressEncoderFormulas : Obligations.AddressEncoderFormulas := by
  refine ⟨fun r => ?_, by decide⟩
  have hevenW : (Machine.encW r).toNat % 2 = 0 := by rw [Machine.toNat_encW]; omega
  have hevenR : (Machine.encR r).toNat % 2 = 0 := by rw [Machine.toNat_encR]; omega
  have hleR : 0x80 ≤ (Machine.encR r).toNat := by rw [Machine.toNat_encR]; omega
  exact ⟨rfl, Machine.encW_eq_concat r, hevenW, Machine.toNat_encW_lt r, rfl, Machine.encR_eq_or r,
    Machine.encR_eq_concat r, Machine.encR_eq_add r, hevenR, hleR⟩

/-! ## The ranges of the encoders (R72) -/

theorem Machine.encW_injective : Function.Injective Machine.encW :=
  Function.LeftInverse.injective frameIndex_encW

theorem Machine.encR_injective : Function.Injective Machine.encR :=
  Function.LeftInverse.injective frameIndex_encR

/-- Bit 7 tells the two ranges apart. -/
theorem Machine.encW_ne_encR (r q : RegIndex) : Machine.encW r ≠ Machine.encR q := by
  intro h
  have hbit := congrArg frameIsRead h
  rw [frameIsRead_encW, frameIsRead_encR] at hbit
  cases hbit

theorem eq_encW_of_write {a : Byte} (hpad : framePad a = false) (hread : frameIsRead a = false) :
    a = Machine.encW (frameIndex a) := by
  have hfields := frame_fields a hpad
  rw [hread, if_neg Bool.false_ne_true] at hfields
  rw [Machine.encW_eq_concat, hfields]

theorem eq_encR_of_read {a : Byte} (hpad : framePad a = false) (hread : frameIsRead a = true) :
    a = Machine.encR (frameIndex a) := by
  have hfields := frame_fields a hpad
  rw [if_pos hread] at hfields
  rw [Machine.encR_eq_concat, hfields]

/-- A byte has bit 0 clear exactly when it is one of the 128 address bytes. -/
theorem framePad_eq_false_iff (a : Byte) :
    framePad a = false ↔ ∃ r, a = Machine.encW r ∨ a = Machine.encR r := by
  constructor
  · intro hpad
    refine ⟨frameIndex a, ?_⟩
    cases hread : frameIsRead a
    case false => exact .inl (eq_encW_of_write hpad hread)
    case true => exact .inr (eq_encR_of_read hpad hread)
  · rintro ⟨r, rfl | rfl⟩
    · exact framePad_encW r
    · exact framePad_encR r

/-- Settles O6. -/
theorem addressByteProperties : Obligations.AddressByteProperties :=
  ⟨fun r => ⟨frameIsRead_encW r, framePad_encW r⟩, fun r => ⟨frameIsRead_encR r, framePad_encR r⟩,
    fun r => ⟨frameIndex_encW r, frameIndex_encR r⟩, fun _ _ h => Machine.encW_injective h,
    fun _ _ h => Machine.encR_injective h, Machine.encW_ne_encR, framePad_eq_false_iff⟩

/-! ## Decoding an address byte (R73) -/

theorem decodeFrame_of_read {a : Byte} (hpad : framePad a = false) (hread : frameIsRead a = true) :
    decodeFrame a = .ok (.readFrame (frameIndex a)) := by
  simp [decodeFrame, hpad, hread]

theorem decodeFrame_of_write {a : Byte} (hpad : framePad a = false) (hread : frameIsRead a = false) :
    decodeFrame a = .ok (.writeFrame (frameIndex a)) := by
  simp [decodeFrame, hpad, hread]

/-- Settles O7. -/
theorem addressByteDecoding : Obligations.AddressByteDecoding :=
  ⟨fun _ => ⟨rfl, rfl⟩, fun _ => decodeFrame_of_read, fun _ => decodeFrame_of_write,
    fun r => ⟨decodeFrame_encW r, decodeFrame_encR r⟩⟩

end Sys2Proof
end

section
/-! PROOFS. The chip-select gate: what the two pin levels do (R80, R81), and the block held with the line low
by a transport that never answers (R156). -/

namespace Sys2Proof.Machine

/-! ## The two levels -/

theorem exec_select (s : State) : exec .select s = .next (s.pinSet csActive) := rfl

theorem exec_deselect (s : State) : exec .deselect s = .next (s.pinSet csInactive) := rfl

/-- Settles O9: `select()` is `PinSet(0)`, and the peer awaits an address byte (R38). -/
theorem selectDrivesLow : Obligations.SelectDrivesLow :=
  ⟨rfl, fun s => by rw [exec_select, State.pinSet, Peer.onPin_active, csActive]⟩

/-- Settles O10: `deselect()` is `PinSet(1)`, and the peer's frame ends (R38). -/
theorem deselectDrivesHigh : Obligations.DeselectDrivesHigh :=
  ⟨rfl, fun s => by rw [exec_deselect, State.pinSet, Peer.onPin_inactive, csInactive]⟩

/-! ## A transport that never answers -/

/-- A request is in flight only in the two phases that run a wire frame (R24 (b)). -/
theorem State.phase_of_inFlight {s : State} (hf : s.inFlight ≠ none) :
    s.phase = .tAddr ∨ s.phase = .tData := by
  cases hp : s.phase
  case tAddr => exact .inl rfl
  case tData => exact .inr rfl
  all_goals exact absurd (by rw [State.inFlight, hp]) hf

section
variable {s : State} (hn : s.replies = [])
include hn

theorem sendAddress_unanswered (a : Byte) : sendAddress a s = .next s := by
  rw [sendAddress, State.respond_nil hn]

theorem sendPayload_unanswered (sl : Slot) : sendPayload sl s = .next s := by
  rw [sendPayload, State.respond_nil hn]

theorem receivePayload_unanswered (sl : Slot) : receivePayload sl s = .next s := by
  rw [receivePayload, State.respond_nil hn]

theorem movePayload_unanswered (sl : Slot) : movePayload sl s = .next s := by
  rw [movePayload]
  cases sl.kind
  · exact sendPayload_unanswered hn sl
  · exact receivePayload_unanswered hn sl

/-- A row of R96 with a request in flight and no answer changes nothing. -/
theorem Inv.stepPhase_unanswered (h : Inv s) (hf : s.inFlight ≠ none) : stepPhase s = .next s := by
  obtain ⟨sl, hs, ha⟩ := h.address (State.selected_of_inFlight hf)
  rcases State.phase_of_inFlight hf with hp | hp
  · rw [stepPhase_tAddr hp ha]
    exact sendAddress_unanswered hn _
  · rw [stepPhase_tData hp hs ha]
    exact movePayload_unanswered hn sl

end

/-- `rst` is not asserted in the first of steps in none of which it is asserted. -/
theorem State.rstNow_of_take {s : State} {k : Nat} (h : ∀ b ∈ s.rst.take (k + 1), b = false) :
    s.rstNow = false := by
  rcases hr : s.rst with _ | ⟨b, later⟩
  · exact State.rstNow_of_nil hr
  · rw [State.rstNow, hr]
    exact h b (by simp [hr])

/-- Waiting uses up the entries of `rst` and nothing else: an induction over the steps. -/
theorem Inv.run_unanswered {s : State} {k : Nat} (h : Inv s) (hf : s.inFlight ≠ none) (hn : s.replies = [])
    (hr : ∀ b ∈ s.rst.take k, b = false) : run k s = .next { s with rst := s.rst.drop k } := by
  induction k generalizing s with
  | zero => rfl
  | succ k ih =>
    have hstep : step s = .next s.afterRst := by
      rw [step_row (State.rstNow_of_take hr)]
      exact h.afterRst.stepPhase_unanswered hn hf
    have hlater : ∀ b ∈ s.afterRst.rst.take k, b = false := fun b hb => hr b <| by
      rw [State.afterRst_rst, ← List.drop_one, List.take_drop] at hb
      rw [Nat.add_comm]
      exact List.mem_of_mem_drop hb
    rw [run_succ k hstep, ih h.afterRst hf hn hlater, State.afterRst_rst, List.drop_tail]
    rfl

/-- Settles O34: the run only waits, and a phase with a request in flight is one in which the chip is
selected. -/
theorem unansweredRequestBlocks : Obligations.UnansweredRequestBlocks :=
  fun _ _ h hf hn hr => ⟨h.run_unanswered hf hn hr, h.cs_of_selected (State.selected_of_inFlight hf)⟩

end Sys2Proof.Machine
end

section
/-! PROOFS. The two phases of a wire frame where the transport itself answers, waits or is not asked (R91, R92,
R96, R156), and the instruction a step runs in each phase (R96). -/

namespace Sys2Proof.Machine

/-! ## The sub-transfers, answered by the transport -/

/-- A failed receive leaves RBUF undetermined where it was the destination, and changes nothing else. -/
theorem State.spoil_eq (s : State) (sl : Slot) :
    s.spoil sl = { s with
      rbuf := if sl.dest = .rbuf then freeBytes s.freeIdx sl.len else s.rbuf
      freeIdx := if sl.dest = .rbuf then s.freeIdx + sl.len else s.freeIdx } := by
  rw [State.spoil]
  cases sl.dest <;> rfl

section
variable {s : State} {rest : List Reply}

theorem sendAddress_ok {b : List Byte} (h : s.replies = .given (.ok b) :: rest) (a : Byte) :
    sendAddress a s = .next { s with
      phase := .tData, replies := rest, trace := s.trace ++ [s.evTx [a] (.ok [])] } := by
  rw [sendAddress, State.respond_tx_ok h]
  simp [State.answerWith, State.setPhase, State.evTx, Request.event, h]

theorem sendAddress_fail (h : s.replies = .given .fail :: rest) (a : Byte) :
    sendAddress a s = .next { s with
      phase := .tDesel, replies := rest, res := .transferError,
      trace := s.trace ++ [s.evTx [a] .fail] } := by
  rw [sendAddress, State.respond_fail h]
  simp [State.answerWith, State.raiseTransferError, State.setPhase, State.evTx, Request.event, h]

theorem sendPayload_ok {b : List Byte} (h : s.replies = .given (.ok b) :: rest) (sl : Slot) :
    sendPayload sl s = .next { s with
      phase := .tDesel, replies := rest, trace := s.trace ++ [s.evTx sl.data (.ok [])] } := by
  rw [sendPayload, State.respond_tx_ok h]
  simp [State.answerWith, State.setPhase, State.evTx, Request.event, h]

theorem sendPayload_fail (h : s.replies = .given .fail :: rest) (sl : Slot) :
    sendPayload sl s = .next { s with
      phase := .tDesel, replies := rest, res := .transferError,
      trace := s.trace ++ [s.evTx sl.data .fail] } := by
  rw [sendPayload, State.respond_fail h]
  simp [State.answerWith, State.raiseTransferError, State.setPhase, State.evTx, Request.event, h]

theorem receivePayload_ok {b : List Byte} {sl : Slot} (h : s.replies = .given (.ok b) :: rest)
    (hb : b.length = sl.len) : receivePayload sl s = .next { s with
      phase := .tDesel, replies := rest, trace := s.trace ++ [s.evRx sl.len (.ok b)],
      rbuf := if sl.dest = .rbuf then b else s.rbuf,
      cur := if sl.dest = .cur then b.headD s.cur else s.cur } := by
  rw [receivePayload, State.respond_rx_ok hb h]
  simp [State.deliver_eq, State.answerWith, State.setPhase, State.evRx, Request.event, h]

theorem receivePayload_fail (h : s.replies = .given .fail :: rest) (sl : Slot) :
    receivePayload sl s = .next { s with
      phase := .tDesel, replies := rest, res := .transferError,
      trace := s.trace ++ [s.evRx sl.len .fail],
      rbuf := if sl.dest = .rbuf then freeBytes s.freeIdx sl.len else s.rbuf,
      freeIdx := if sl.dest = .rbuf then s.freeIdx + sl.len else s.freeIdx } := by
  rw [receivePayload, State.respond_fail h]
  simp [State.spoil_eq, State.answerWith, State.raiseTransferError, State.setPhase, State.evRx,
    Request.event, h]

end

/-- Settles O15: each phase of the frame is one sub-transfer. -/
theorem writeFrameTransfers : Obligations.WriteFrameTransfers := by
  intro s r sl b rest
  refine ⟨fun hp hq => ?_, fun hp hq => ?_, fun hp hs hq => ?_, fun hp hs hq => ?_⟩
  · rw [exec_writeFrame_tAddr r hp, sendAddress_ok hq]
  · rw [exec_writeFrame_tAddr r hp, sendAddress_fail hq]
  · rw [exec_writeFrame_tData r hp hs, sendPayload_ok hq]
  · rw [exec_writeFrame_tData r hp hs, sendPayload_fail hq]

/-- Settles O16: each phase of the frame is one sub-transfer. -/
theorem readFrameTransfers : Obligations.ReadFrameTransfers := by
  intro s r sl b rest
  refine ⟨fun hp hq => ?_, fun hp hq => ?_, fun hp hs hb hq => ?_, fun hp hs hq => ?_⟩
  · rw [exec_readFrame_tAddr r hp, sendAddress_ok hq]
  · rw [exec_readFrame_tAddr r hp, sendAddress_fail hq]
  · rw [exec_readFrame_tData r hp hs, receivePayload_ok hq hb]
  · rw [exec_readFrame_tData r hp hs, receivePayload_fail hq]

/-! ## A frame that completes no transfer -/

/-- Both frames run `runFrame`, with an address byte and a payload transfer that waits for its answer. -/
theorem exec_frame {r : RegIndex} {i : Instr} (hi : i = .writeFrame r ∨ i = .readFrame r) :
    ∃ a move, (∀ s, exec i s = runFrame a move s) ∧
      ∀ sl s, s.replies = [] → move sl s = .next s := by
  rcases hi with rfl | rfl
  · exact ⟨encW r, sendPayload, fun _ => rfl, fun sl _ hn => sendPayload_unanswered hn sl⟩
  · exact ⟨encR r, receivePayload, fun _ => rfl, fun sl _ hn => receivePayload_unanswered hn sl⟩

/-- The controller runs no frame outside T_ADDR and T_DATA (log entry 15). -/
theorem runFrame_refused {a : Byte} {move : Slot → State → Host.Outcome State Fault Refusal} {s : State}
    (ha : s.phase ≠ .tAddr) (hd : s.phase ≠ .tData) :
    runFrame a move s = .refused .frameOutsideTransaction := by
  rw [runFrame]
  cases hp : s.phase
  case tAddr => exact absurd hp ha
  case tData => exact absurd hp hd
  all_goals rfl

/-- Settles O17, by the phase `runFrame` finds. -/
theorem framesWaitOrStop : Obligations.FramesWaitOrStop := by
  intro s r i hi
  obtain ⟨a, move, hexec, hmove⟩ := exec_frame hi
  rw [hexec]
  refine ⟨?_, runFrame_refused, fun hp hs => ?_⟩
  · rintro (hp | ⟨hp, hs⟩) hn
    · simp only [runFrame, hp, sendAddress_unanswered hn]
    · obtain ⟨sl, hsl⟩ := Option.ne_none_iff_exists'.mp hs
      simp only [runFrame, hp, hsl, hmove sl s hn]
  · simp only [runFrame, hp, hs]

/-! ## The instruction of a step -/

/-- Rows T_ADDR and T_DATA run the frame whose address byte stands in ADDR. -/
theorem stepPhase_frame {s : State} {i : Instr} (hp : s.phase = .tAddr ∨ s.phase = .tData)
    (hd : decodeFrame s.addr = .ok i) : stepPhase s = exec i s := by
  rcases hp with hp | hp <;> simp only [stepPhase, hp, stepFrame, hd]

/-- Settles O32, row by row of R96. -/
theorem stepRunsDecodedInstruction : Obligations.StepRunsDecodedInstruction := by
  intro s i hr
  rw [step_row hr]
  refine ⟨fun o rest hp hc hd => ?_, fun hp hd => ?_, fun sl hp hs hd => ?_, fun hp hd => ?_⟩
  · cases hd
    rw [stepPhase_idle_cons (s := s.afterRst) hp hc]
    rfl
  · exact stepPhase_frame (s := s.afterRst) hp hd
  · cases hd
    rw [stepPhase_tSel (s := s.afterRst) hp hs]
    rfl
  · cases hd
    rw [stepPhase_tDesel (s := s.afterRst) hp]
    rfl

end Sys2Proof.Machine
end

section
/-! PROOFS. Whole operations of the register transaction controller where the transport answers by itself (R91
to R95, R99): a transaction slot does what the pseudocode's `MemWrite` or `MemRead` says (R91, R92), and the
operations are one such slot, or a read slot and a write slot. -/

namespace Sys2Proof.Machine

/-! ## A delivery that changes nothing -/

/-- Only RBUF notices a delivery of no bytes. -/
theorem State.deliver_nil {s : State} {d : Dest} (hd : d ≠ .rbuf) : s.deliver d [] = s := by
  cases d
  case rbuf => exact absurd rfl hd
  all_goals rfl

/-- Only RBUF notices a failed receive. -/
theorem State.spoil_of_ne {s : State} {sl : Slot} (hd : sl.dest ≠ .rbuf) : s.spoil sl = s := by
  rw [State.spoil_eq, if_neg hd, if_neg hd]

/-! ## A slot against the pseudocode of its transaction -/

/-- A write slot does what `MemWrite` does, a step for each event. -/
theorem AtSlot.run_memWrite {s : State} {r : RegIndex} {v : List Byte} (h : AtSlot s (writeSlot r v))
    {as : List Answer} {rest : List Reply} {x : Pseudo.Run} (hq : s.replies = as.map Reply.given ++ rest)
    (hx : Pseudo.memWrite s.handle r v as = some x) :
    run x.events.length s =
      .next (s.afterSlot (writeSlot r v) x.res x.events (x.rest.map Reply.given ++ rest)) := by
  rcases as with _ | ⟨_ | _, as⟩
  · cases hx
  · rcases as with _ | ⟨_ | _, as⟩ <;> cases hx
    · exact h.run_write_ok rfl hq
    · exact h.run_write_fails rfl hq
  · cases hx
    exact h.run_address_fails hq

/-- A read slot whose bytes do not go to RBUF does what `MemRead` does, a step for each event; where the
result is TransferError there are no bytes to deliver. -/
theorem AtSlot.run_memRead {s : State} {r : RegIndex} {n : Nat} {d : Dest} (h : AtSlot s (readSlot r n d))
    (hd : d ≠ .rbuf) {as : List Answer} {rest : List Reply} {x : Pseudo.Run}
    (hq : s.replies = as.map Reply.given ++ rest) (hx : Pseudo.memRead s.handle r n as = some x) :
    run x.events.length s = .next ((s.deliver d x.bytes).afterSlot (readSlot r n d) x.res x.events
      (x.rest.map Reply.given ++ rest)) := by
  rcases as with _ | ⟨_ | _, as⟩
  · cases hx
  · rcases as with _ | ⟨b | _, as⟩
    · cases hx
    · simp only [Pseudo.memRead] at hx
      split at hx <;> cases hx
      exact h.run_read_ok rfl ‹_› hq
    · cases hx
      have hrun := h.run_read_fails rfl hq
      rw [State.spoil_of_ne hd] at hrun
      rw [State.deliver_nil hd]
      exact hrun
  · cases hx
    rw [State.deliver_nil hd]
    exact h.run_address_fails hq

/-! ## T_NEXT after a slot -/

/-- The state in IDLE with the line released. -/
def State.released (s : State) : State := { s with phase := .idle, cs := csInactive }

/-- A ready state is one in IDLE with the line released. -/
theorem Ready.exists_released {s : State} (h : Ready s) : ∃ s', s = State.released s' :=
  ⟨s, by rw [State.released, ← h.idle, ← h.level]⟩

/-- After the last slot the operation completes. -/
theorem run_completion {k : Nat} {s x : State} {sl : Slot} {res : Result} {es : List Event}
    {rest : List Reply} (h : run k s = .next (x.afterSlot sl res es rest)) (hr : x.rst = [])
    (hlast : slotCount x.op ≤ x.seq.toNat + seqStep x.op x.seq.toNat res) :
    run (k + 1) s = .next (x.released.afterOp x.op x.reg x.arg
      (BitVec.ofNat 4 (x.seq.toNat + seqStep x.op x.seq.toNat res)) sl.addressByte (finalRes x.op res) es
      rest (if x.op = .read then x.rbuf else [])) := by
  rw [run_add 1 h, run_succ 0 (step_next (s := x.afterSlot sl res es rest) rfl hr),
    State.advance_of_ge (s := x.afterSlot sl res es rest) hlast]
  rfl

/-- After an earlier slot the next one starts. -/
theorem run_next_slot {k : Nat} {s x : State} {sl : Slot} {res : Result} {es : List Event}
    {rest : List Reply} (h : run k s = .next (x.afterSlot sl res es rest)) (hr : x.rst = [])
    (hlt : x.seq.toNat + seqStep x.op x.seq.toNat res < slotCount x.op) :
    run (k + 1) s = .next { x.afterSlot sl res es rest with
      seq := BitVec.ofNat 4 (x.seq.toNat + seqStep x.op x.seq.toNat res), phase := .tSel } := by
  rw [run_add 1 h, run_succ 0 (step_next (s := x.afterSlot sl res es rest) rfl hr),
    State.advance_of_lt (s := x.afterSlot sl res es rest) hlt]
  rfl

/-! ## WRITE -/

/-- `write` does what `MemWrite` does, and one step at T_NEXT. -/
theorem Ready.run_write {s : State} (hr : Ready s) {r : RegIndex} {v : List Byte} (len : Byte)
    {as : List Answer} {rest : List Reply} {x : Pseudo.Run} (hq : s.replies = as.map Reply.given ++ rest)
    (hx : Pseudo.memWrite s.handle r v as = some x) :
    run (x.events.length + 1) { s.accept .write r len with wbuf := v } =
      .next { s.afterOp .write r len 1#4 (encW r) x.res x.events (x.rest.map Reply.given ++ rest) []
        with wbuf := v } := by
  obtain ⟨s, rfl⟩ := hr.exists_released
  have h : AtSlot { s.released.accept .write r len with wbuf := v } (writeSlot r v) := ⟨rfl, hr.noRst, rfl⟩
  exact run_completion (h.run_memWrite hq hx) hr.noRst (le_refl 1)

/-- A well-formed `write` is accepted and lends WBUF. -/
theorem Ready.exec_write {s : State} (hr : Ready s) (hb : s.bound = true) {r : RegIndex} {len : Byte}
    {v : List Byte} (hw : wellFormed (.write r len v) = true) :
    exec (.write r len v) s = .next { s.accept .write r len with wbuf := v } := by
  obtain ⟨hlen, hv⟩ := Bool.and_eq_true_iff.mp hw
  refine atPort_accepts hr.idle ?_
  rw [whyWrite_of_bound hb, if_pos (lengthOk_iff.mp hlen), if_pos (payloadOk_iff.mp hv)]

/-- Settles O20: the three ways `MemWrite` can end. -/
theorem writeOutcomes : Obligations.WriteOutcomes := by
  intro s r len v b₁ b₂ rest hr hb hw
  exact ⟨_, hr.exec_write hb hw,
    fun hq => ⟨_, hr.run_write len (as := [.ok b₁, .ok b₂]) hq rfl⟩,
    fun hq => ⟨_, hr.run_write len (as := [.ok b₁, .fail]) hq rfl⟩,
    fun hq => ⟨_, hr.run_write len (as := [.fail]) hq rfl⟩⟩

/-! ## READ -/

/-- The state in which `read` is accepted: RBUF is lent, undetermined. -/
def State.acceptRead (r : RegIndex) (len : Byte) (s : State) : State :=
  (s.accept .read r len).clobberRbuf len.toNat

/-- A well-formed `read` is accepted. -/
theorem Ready.exec_read {s : State} (hr : Ready s) (hb : s.bound = true) {r : RegIndex} {len : Byte}
    (hw : wellFormed (.read r len) = true) : exec (.read r len) s = .next (s.acceptRead r len) := by
  refine atPort_accepts hr.idle ?_
  rw [whyRead_of_bound hb, if_pos (lengthOk_iff.mp hw)]

theorem Ready.atSlot_read {s : State} (hr : Ready s) (r : RegIndex) (len : Byte) :
    AtSlot (s.acceptRead r len) (readSlot r len.toNat .rbuf) :=
  ⟨rfl, hr.noRst, rfl⟩

/-- RD1 of R99. -/
theorem Ready.run_read_ok {s : State} (hr : Ready s) {r : RegIndex} {len : Byte} {b₁ b : List Byte}
    {rest : List Reply} (hb : b.length = len.toNat)
    (hq : s.replies = .given (.ok b₁) :: .given (.ok b) :: rest) :
    run 5 (s.acceptRead r len) = .next { s.afterOp .read r len 1#4 (encR r) .ok
      [s.evCS csActive, s.evTx [encR r] (.ok []), s.evRx len.toNat (.ok b), s.evCS csInactive] rest b
      with rbuf := b, freeIdx := s.freeIdx + len.toNat } := by
  obtain ⟨s, rfl⟩ := hr.exists_released
  exact run_completion ((hr.atSlot_read r len).run_read_ok rfl hb hq) hr.noRst (le_refl 1)

/-- RD2 of R99: RBUF is undetermined once more. -/
theorem Ready.run_read_fails {s : State} (hr : Ready s) {r : RegIndex} {len : Byte} {b₁ : List Byte}
    {rest : List Reply} (hq : s.replies = .given (.ok b₁) :: .given .fail :: rest) :
    run 5 (s.acceptRead r len) = .next { s.afterOp .read r len 1#4 (encR r) .transferError
      [s.evCS csActive, s.evTx [encR r] (.ok []), s.evRx len.toNat .fail, s.evCS csInactive] rest
      (freeBytes (s.freeIdx + len.toNat) len.toNat) with
      rbuf := freeBytes (s.freeIdx + len.toNat) len.toNat
      freeIdx := s.freeIdx + len.toNat + len.toNat } := by
  obtain ⟨s, rfl⟩ := hr.exists_released
  exact run_completion ((hr.atSlot_read r len).run_read_fails rfl hq) hr.noRst (le_refl 1)

/-- RD3 of R99: RBUF stays undetermined. -/
theorem Ready.run_read_address_fails {s : State} (hr : Ready s) {r : RegIndex} {len : Byte}
    {rest : List Reply} (hq : s.replies = .given .fail :: rest) :
    run 4 (s.acceptRead r len) = .next { s.afterOp .read r len 1#4 (encR r) .transferError
      [s.evCS csActive, s.evTx [encR r] .fail, s.evCS csInactive] rest
      (freeBytes s.freeIdx len.toNat) with
      rbuf := freeBytes s.freeIdx len.toNat
      freeIdx := s.freeIdx + len.toNat } := by
  obtain ⟨s, rfl⟩ := hr.exists_released
  exact run_completion ((hr.atSlot_read r len).run_address_fails hq) hr.noRst (le_refl 1)

/-- Settles O21: RD1, RD2 and RD3 of R99. -/
theorem readOutcomes : Obligations.ReadOutcomes := by
  intro s r len b₁ b rest hr hb hw
  exact ⟨_, hr.exec_read hb hw, hr.run_read_ok, hr.run_read_fails, hr.run_read_address_fails⟩

/-! ## The read-modify-write operations (R95) -/

/-- T_SEL of the read slot of a read-modify-write of register `r` that writes back `f` of the byte read. -/
structure AtReadModifyWrite (s : State) (r : RegIndex) (f : Byte → Byte) : Prop where
  read   : AtSlot s (readSlot r 1 .cur)
  isRead : isRmwRead s.op s.seq.toNat = true
  write  : ∀ c, State.slot { s with cur := c, seq := BitVec.ofNat 4 (s.seq.toNat + 1) } =
    some (writeSlot r [f c])

/-- A read slot of a read-modify-write is followed by its write slot. -/
theorem isRmwRead_succ {o : Op} {n : Nat} (h : isRmwRead o n = true) :
    n + 1 < slotCount o ∧ isRmwRead o (n + 1) = false := by
  cases o <;> simp only [isRmwRead, beq_iff_eq, Bool.false_eq_true] at h <;> subst h <;> decide

/-- T_SEL of the write slot, the read slot having received `c`. -/
def State.atWriteBack (r : RegIndex) (c : Byte) (es : List Event) (rest : List Reply) (s : State) : State :=
  { s.afterSlot (readSlot r 1 .cur) .ok es rest with
    cur := c, seq := BitVec.ofNat 4 (s.seq.toNat + 1), phase := .tSel }

theorem AtReadModifyWrite.atSlot_write {s : State} {r : RegIndex} {f : Byte → Byte}
    (h : AtReadModifyWrite s r f) (c : Byte) (es : List Event) (rest : List Reply) :
    AtSlot (s.atWriteBack r c es rest) (writeSlot r [f c]) :=
  ⟨rfl, h.read.noRst, h.write c⟩

@[simp] theorem seqStep_ok (o : Op) (n : Nat) : seqStep o n .ok = 1 := by simp [seqStep]

/-- After a read slot that received `c` the write slot starts. -/
theorem AtReadModifyWrite.run_read {s : State} {r : RegIndex} {f : Byte → Byte}
    (h : AtReadModifyWrite s r f) {k : Nat} {c : Byte} {es : List Event} {rest : List Reply}
    (hrun : run k s = .next ((s.deliver .cur [c]).afterSlot (readSlot r 1 .cur) .ok es rest)) :
    run (k + 1) s = .next (s.atWriteBack r c es rest) := by
  rw [run_next_slot hrun h.read.noRst (by rw [seqStep_ok]; exact (isRmwRead_succ h.isRead).1), seqStep_ok]
  rfl

/-- Both slots do what `MemRead` of one byte and `MemWrite` do. -/
theorem AtReadModifyWrite.run_memWrite {s : State} {r : RegIndex} {f : Byte → Byte}
    (h : AtReadModifyWrite s r f) {as as' : List Answer} {rest : List Reply} {es : List Event} {c : Byte}
    {y : Pseudo.Run} (hq : s.replies = as.map Reply.given ++ rest)
    (hx : Pseudo.memRead s.handle r 1 as = some ⟨es, .ok, [c], as'⟩)
    (hy : Pseudo.memWrite s.handle r [f c] as' = some y) :
    run (es.length + 1 + y.events.length) s =
      .next (State.afterSlot { s with cur := c, seq := BitVec.ofNat 4 (s.seq.toNat + 1) }
        (writeSlot r [f c]) y.res (es ++ y.events) (y.rest.map Reply.given ++ rest)) := by
  have hread := h.run_read (h.read.run_memRead (by decide) hq hx)
  rw [run_add _ hread, (h.atSlot_write c _ _).run_memWrite rfl hy]
  simp only [State.afterSlot, State.atWriteBack, List.append_assoc]

/-- An operation whose slot 0 is the read slot of a read-modify-write is SET_BITS, CLEAR_BITS, ANTENNA_ON or
ANTENNA_OFF. -/
theorem isRmwRead_zero {o : Op} (h : isRmwRead o 0 = true) :
    o = .setBits ∨ o = .clearBits ∨ o = .antennaOn ∨ o = .antennaOff := by
  simpa using (isRmwRead_iff o 0#4).mp h

section
variable {s : State} {o : Op} {reg q : RegIndex} {arg : Byte} {f : Byte → Byte} (hr : Ready s)
  (h : AtReadModifyWrite (s.accept o reg arg) q f) {as : List Answer} {rest : List Reply}
  (hq : s.replies = as.map Reply.given ++ rest)
include hr h hq

/-- S1 to S3 of R99: the byte is read, and the result is that of the write transaction. -/
theorem Ready.run_writeBack {as' : List Answer} {es : List Event} {c : Byte} {y : Pseudo.Run}
    (hx : Pseudo.memRead s.handle q 1 as = some ⟨es, .ok, [c], as'⟩)
    (hy : Pseudo.memWrite s.handle q [f c] as' = some y) :
    run (es.length + 1 + y.events.length + 1) (s.accept o reg arg) =
      .next { s.afterOp o reg arg 2#4 (encW q) y.res (es ++ y.events) (y.rest.map Reply.given ++ rest) []
        with cur := c } := by
  obtain ⟨s, rfl⟩ := hr.exists_released
  have hrun := h.run_memWrite hq hx hy
  rcases isRmwRead_zero h.isRead with rfl | rfl | rfl | rfl <;>
    exact run_completion hrun hr.noRst (le_refl 2)

/-- S4 and S5 of R99: after a failed read there is no write transaction. -/
theorem Ready.run_failed_read {as' : List Answer} {es : List Event}
    (hx : Pseudo.memRead s.handle q 1 as = some ⟨es, .transferError, [], as'⟩) :
    run (es.length + 1) (s.accept o reg arg) =
      .next (s.afterOp o reg arg 2#4 (encR q) .transferError es (as'.map Reply.given ++ rest) []) := by
  obtain ⟨s, rfl⟩ := hr.exists_released
  have hrun := h.read.run_memRead (by decide) hq hx
  rcases isRmwRead_zero h.isRead with rfl | rfl | rfl | rfl <;>
    exact run_completion hrun hr.noRst (le_refl 2)

end

/-- The five outcomes S1 to S5 of R99, for every operation that is one read-modify-write. -/
theorem Ready.readModifyWrite_outcomes {s : State} (hr : Ready s) {o : Op} {reg q : RegIndex} {arg : Byte}
    {f : Byte → Byte} (h : AtReadModifyWrite (s.accept o reg arg) q f) (c : Byte) (b₁ b₃ b₄ : List Byte)
    (rest : List Reply) :
    (s.replies = .given (.ok b₁) :: .given (.ok [c]) :: .given (.ok b₃) :: .given (.ok b₄) :: rest →
      ∃ n, run 10 (s.accept o reg arg) = .next { s.afterOp o reg arg n (encW q) .ok
        [s.evCS csActive, s.evTx [encR q] (.ok []), s.evRx 1 (.ok [c]), s.evCS csInactive,
         s.evCS csActive, s.evTx [encW q] (.ok []), s.evTx [f c] (.ok []), s.evCS csInactive] rest [] with
        cur := c }) ∧
    (s.replies = .given (.ok b₁) :: .given (.ok [c]) :: .given (.ok b₃) :: .given .fail :: rest →
      ∃ n, run 10 (s.accept o reg arg) = .next { s.afterOp o reg arg n (encW q) .transferError
        [s.evCS csActive, s.evTx [encR q] (.ok []), s.evRx 1 (.ok [c]), s.evCS csInactive,
         s.evCS csActive, s.evTx [encW q] (.ok []), s.evTx [f c] .fail, s.evCS csInactive] rest [] with
        cur := c }) ∧
    (s.replies = .given (.ok b₁) :: .given (.ok [c]) :: .given .fail :: rest →
      ∃ n, run 9 (s.accept o reg arg) = .next { s.afterOp o reg arg n (encW q) .transferError
        [s.evCS csActive, s.evTx [encR q] (.ok []), s.evRx 1 (.ok [c]), s.evCS csInactive,
         s.evCS csActive, s.evTx [encW q] .fail, s.evCS csInactive] rest [] with cur := c }) ∧
    (s.replies = .given (.ok b₁) :: .given .fail :: rest →
      ∃ n, run 5 (s.accept o reg arg) = .next (s.afterOp o reg arg n (encR q) .transferError
        [s.evCS csActive, s.evTx [encR q] (.ok []), s.evRx 1 .fail, s.evCS csInactive] rest [])) ∧
    (s.replies = .given .fail :: rest →
      ∃ n, run 4 (s.accept o reg arg) = .next (s.afterOp o reg arg n (encR q) .transferError
        [s.evCS csActive, s.evTx [encR q] .fail, s.evCS csInactive] rest [])) :=
  ⟨fun hq => ⟨_, hr.run_writeBack h (as := [.ok b₁, .ok [c], .ok b₃, .ok b₄]) hq rfl rfl⟩,
    fun hq => ⟨_, hr.run_writeBack h (as := [.ok b₁, .ok [c], .ok b₃, .fail]) hq rfl rfl⟩,
    fun hq => ⟨_, hr.run_writeBack h (as := [.ok b₁, .ok [c], .fail]) hq rfl rfl⟩,
    fun hq => ⟨_, hr.run_failed_read h (as := [.ok b₁, .fail]) hq rfl⟩,
    fun hq => ⟨_, hr.run_failed_read h (as := [.fail]) hq rfl⟩⟩

/-- Acceptance of an operation whose slots are those of `rmwSlot` leads to its read slot. -/
theorem Ready.atReadModifyWrite {s : State} (hr : Ready s) {o : Op} {reg q : RegIndex} {arg : Byte}
    {f : Byte → Byte} (ho : isRmwRead o 0 = true)
    (hslot : ∀ u : State, u.op = o → u.reg = reg → u.arg = arg →
      u.slot = rmwSlot q (f u.cur) u.seq.toNat) :
    AtReadModifyWrite (s.accept o reg arg) q f where
  read := ⟨rfl, hr.noRst, hslot _ rfl rfl rfl⟩
  isRead := ho
  write _ := hslot _ rfl rfl rfl

theorem Ready.atReadModifyWrite_setBits {s : State} (hr : Ready s) (r : RegIndex) (m : Byte) :
    AtReadModifyWrite (s.accept .setBits r m) r (setMask · m) :=
  hr.atReadModifyWrite rfl fun u ho hreg harg => by rw [State.slot, ho, hreg, harg]

theorem Ready.atReadModifyWrite_clearBits {s : State} (hr : Ready s) (r : RegIndex) (m : Byte) :
    AtReadModifyWrite (s.accept .clearBits r m) r (clearMask · m) :=
  hr.atReadModifyWrite rfl fun u ho hreg harg => by rw [State.slot, ho, hreg, harg]

/-- Settles O22: the read-modify-write that sets the mask. -/
theorem setBitsOutcomes : Obligations.SetBitsOutcomes := by
  intro s r m c b₁ b₃ b₄ rest hr hb
  have h := hr.atReadModifyWrite_setBits r m
  exact ⟨_, atPort_accepts hr.idle (whyUnbound_of_bound hb),
    hr.readModifyWrite_outcomes h c b₁ b₃ b₄ rest⟩

/-- `0xFF - m` is the 8-bit complement of `m` (R58 (c)). -/
theorem clearMask_eq_sub (c m : Byte) : c &&& (0xFF#8 - m) = clearMask c m := by
  rw [clearMask, ← BitVec.allOnes_sub_eq_not]
  rfl

/-- Settles O23: the read-modify-write that clears the mask. -/
theorem clearBitsOutcomes : Obligations.ClearBitsOutcomes := by
  intro s r m c b₁ b₃ b₄ rest hr hb
  have h := hr.atReadModifyWrite_clearBits r m
  rw [clearMask_eq_sub]
  exact ⟨_, atPort_accepts hr.idle (whyUnbound_of_bound hb),
    hr.readModifyWrite_outcomes h c b₁ b₃ b₄ rest⟩

end Sys2Proof.Machine
end

section
/-! PROOFS. The step machine against the pseudocode of whole operations (R91 to R96, R110 to R113): seven
operations are one transaction or one read-modify-write; INIT is a chain of calls, each of which takes the
controller from one slot of R115 to a later one. -/

namespace Sys2Proof.Machine

/-! ## The operations of R110 to R112 -/

/-- `reset()` does what `MemWrite` of VAL_RESET_CMD to REG_COMMAND does, and one step at T_NEXT (R110). -/
theorem Ready.run_reset {s : State} (hr : Ready s) (reg : RegIndex) (arg : Byte) {as : List Answer}
    {rest : List Reply} {x : Pseudo.Run} (hq : s.replies = as.map Reply.given ++ rest)
    (hx : Pseudo.reset s.handle as = some x) :
    run (x.events.length + 1) (s.accept .reset reg arg) =
      .next (s.afterOp .reset reg arg 1#4 (encW Config.regCommand) x.res x.events
        (x.rest.map Reply.given ++ rest) []) := by
  obtain ⟨s, rfl⟩ := hr.exists_released
  have h : AtSlot (s.released.accept .reset reg arg)
      (writeSlot Config.regCommand [Config.valResetCmd]) := ⟨rfl, hr.noRst, rfl⟩
  exact run_completion (h.run_memWrite hq hx) hr.noRst (le_refl 1)

theorem Ready.atReadModifyWrite_antennaOn {s : State} (hr : Ready s) (reg : RegIndex) (arg : Byte) :
    AtReadModifyWrite (s.accept .antennaOn reg arg) Config.regTxControl (setMask · antMask) :=
  hr.atReadModifyWrite rfl fun u ho _ _ => by rw [State.slot, ho]

theorem Ready.atReadModifyWrite_antennaOff {s : State} (hr : Ready s) (reg : RegIndex) (arg : Byte) :
    AtReadModifyWrite (s.accept .antennaOff reg arg) Config.regTxControl (clearMask · antMask) :=
  hr.atReadModifyWrite rfl fun u ho _ _ => by rw [State.slot, ho]

/-! ## The operations other than INIT -/

/-- Accepted in `s`, the command ends as the pseudocode run `x` says. -/
def Refines (i : Instr) (s : State) (x : Pseudo.Run) : Prop :=
  ∃ t u k, exec i s = .next t ∧ run k t = .next u ∧ Ready u ∧
    u.trace = s.trace ++ x.events ∧ u.res = x.res ∧ u.replies = x.rest.map Reply.given ∧
    (∃ rbuf, u.done = s.done ++ [⟨opOf i, x.res, rbuf⟩] ∧
      (opOf i = .read → x.res = .ok → rbuf = x.bytes)) ∧
    (isInit i = false → u.handle = s.handle) ∧ u.bound = true

/-- A run to completion on the handle it found, with whatever is left in CUR and the buffers. -/
theorem Ready.refines {s t : State} (hr : Ready s) (hb : s.bound = true) {i : Instr} {x : Pseudo.Run}
    {k : Nat} {reg : RegIndex} {arg : Byte} {seq : BitVec 4} {addr cur : Byte} {rb wbuf rbuf : List Byte}
    {n : Nat} (ht : exec i s = .next t)
    (hrun : run k t = .next { s.afterOp (opOf i) reg arg seq addr x.res x.events
      (x.rest.map Reply.given ++ []) rb with cur := cur, wbuf := wbuf, rbuf := rbuf, freeIdx := n })
    (hbytes : opOf i = .read → x.res = .ok → rb = x.bytes) : Refines i s x :=
  ⟨t, _, k, ht, hrun, ⟨hr.idle, hr.level, hr.noRst⟩, rfl, rfl, List.append_nil _, ⟨rb, rfl, hbytes⟩,
    fun _ => rfl, hb⟩

/-- A read-modify-write that finishes: after a failed read it is that read, else the read and the write of
what it makes of the byte. -/
theorem Pseudo.readModifyWrite_cases {h : Pseudo.Handle} {r : RegIndex} {f : Byte → Byte}
    {as : List Answer} {x : Pseudo.Run} (hx : Pseudo.readModifyWrite h r f as = some x) :
    (∃ es as', Pseudo.memRead h r 1 as = some ⟨es, .transferError, [], as'⟩ ∧
      x = ⟨es, .transferError, [], as'⟩) ∨
    (∃ es c as' y, Pseudo.memRead h r 1 as = some ⟨es, .ok, [c], as'⟩ ∧
      Pseudo.memWrite h r [f c] as' = some y ∧ x = y.after es) := by
  rcases as with _ | ⟨_ | _, as⟩
  · cases hx
  · rcases as with _ | ⟨b | _, as⟩
    · cases hx
    · rcases b with _ | ⟨c, _ | ⟨_, _⟩⟩
      · cases hx
      · obtain ⟨y, hy, rfl⟩ := Option.map_eq_some_iff.mp hx
        exact .inr ⟨_, c, as, y, rfl, hy, rfl⟩
      · simp [Pseudo.readModifyWrite, Pseudo.memRead] at hx
    · cases hx
      exact .inl ⟨_, as, rfl, rfl⟩
  · cases hx
    exact .inl ⟨_, as, rfl, rfl⟩

section
variable {s : State} (hr : Ready s) (hb : s.bound = true) {as : List Answer} {x : Pseudo.Run}
  (hq : s.replies = as.map Reply.given ++ [])
include hr hb hq

theorem Ready.refines_write {r : RegIndex} {len : Byte} {v : List Byte}
    (hw : wellFormed (.write r len v) = true) (hx : Pseudo.memWrite s.handle r v as = some x) :
    Refines (.write r len v) s x :=
  hr.refines hb (hr.exec_write hb hw) (hr.run_write len hq hx) (by simp [opOf])

theorem Ready.refines_read {r : RegIndex} {len : Byte} (hw : wellFormed (.read r len) = true)
    (hx : Pseudo.memRead s.handle r len.toNat as = some x) : Refines (.read r len) s x := by
  have ht := hr.exec_read hb hw
  rcases as with _ | ⟨_ | _, as⟩
  · cases hx
  · rcases as with _ | ⟨b | _, as⟩
    · cases hx
    · simp only [Pseudo.memRead] at hx
      split at hx <;> cases hx
      exact hr.refines hb ht (hr.run_read_ok ‹_› hq) fun _ _ => rfl
    · cases hx
      exact hr.refines hb ht (hr.run_read_fails hq) (by simp)
  · cases hx
    exact hr.refines hb ht (hr.run_read_address_fails hq) (by simp)

theorem Ready.refines_readModifyWrite {i : Instr} {reg q : RegIndex} {arg : Byte} {f : Byte → Byte}
    (h : AtReadModifyWrite (s.accept (opOf i) reg arg) q f)
    (ht : exec i s = .next (s.accept (opOf i) reg arg))
    (hx : Pseudo.readModifyWrite s.handle q f as = some x) : Refines i s x := by
  have hop : opOf i ≠ .read := fun hop => by simpa [hop, isRmwRead] using h.isRead
  rcases Pseudo.readModifyWrite_cases hx with ⟨es, as', hm, rfl⟩ | ⟨es, c, as', y, hm, hy, rfl⟩
  · exact hr.refines hb ht (hr.run_failed_read h hq hm) fun ho => absurd ho hop
  · exact hr.refines hb ht (hr.run_writeBack h hq hm hy) fun ho => absurd ho hop

end

/-! ## INIT: the slots of R115 -/

theorem seqStep_of_not_read {o : Op} {n : Nat} {r : Result} (h : isRmwRead o n = false) :
    seqStep o n r = 1 := by
  simp [seqStep, h]

/-- INIT is in progress and stands at the start of slot `j` of R115, or, `j` being 12, has completed with Ok;
`d` is what had been presented when it was accepted. -/
structure InitAt (d : List Completion) (j : Nat) (t : State) : Prop where
  op     : t.op = .init
  seq    : t.seq.toNat = j
  noRst  : t.rst = []
  level  : t.cs = csInactive
  bound  : t.bound = true
  phase  : t.phase = if j < 12 then .tSel else .idle
  done   : t.done = if j < 12 then d else d ++ [⟨.init, .ok, []⟩]
  result : j < 12 ∨ t.res = .ok

/-- A delivery moves INIT to no other slot. -/
theorem InitAt.deliver {d : List Completion} {j : Nat} {t : State} (h : InitAt d j t) (dest : Dest)
    (b : List Byte) : InitAt d j (t.deliver dest b) where
  op := (t.deliver_op dest b).trans h.op
  seq := (congrArg BitVec.toNat (t.deliver_seq dest b)).trans h.seq
  noRst := (t.deliver_rst dest b).trans h.noRst
  level := (t.deliver_cs dest b).trans h.level
  bound := (t.deliver_bound dest b).trans h.bound
  phase := (t.deliver_phase dest b).trans h.phase
  done := (t.deliver_done dest b).trans h.done
  result := by rw [State.deliver_res]; exact h.result

theorem InitAt.atSlot {d : List Completion} {j : Nat} {t : State} {sl : Slot} (h : InitAt d j t)
    (hj : j < 12) (hsl : initSlot t.cur j = some sl) : AtSlot t sl where
  phase := by rw [h.phase, if_pos hj]
  noRst := h.noRst
  slot := by rw [State.slot, h.op, h.seq]; exact hsl

/-- The run from `t` has come to `u`, on the handle of `t`, with these events and these replies left. -/
structure Emits (t u : State) (es : List Event) (rest : List Reply) : Prop where
  reached : ∃ k, run k t = .next u
  handle  : u.handle = t.handle
  trace   : u.trace = t.trace ++ es
  replies : u.replies = rest

theorem Emits.refl (t : State) : Emits t t [] t.replies :=
  ⟨⟨0, rfl⟩, rfl, (List.append_nil _).symm, rfl⟩

theorem Emits.trans {t u v : State} {es es' : List Event} {rest rest' : List Reply}
    (h : Emits t u es rest) (h' : Emits u v es' rest') : Emits t v (es ++ es') rest' := by
  obtain ⟨k, hk⟩ := h.reached
  obtain ⟨k', hk'⟩ := h'.reached
  exact ⟨⟨k + k', (run_add k' hk).trans hk'⟩, h'.handle.trans h.handle,
    by rw [h'.trace, h.trace, List.append_assoc], h'.replies⟩

/-- After a slot of INIT that left `x`, T_NEXT starts the next slot or completes with Ok. -/
theorem InitAt.next {d : List Completion} {j k : Nat} {t x : State} {sl : Slot} {res : Result}
    {es : List Event} {rest : List Reply} (h : InitAt d j x) (hj : j < 12) (hh : x.handle = t.handle)
    (htr : x.trace = t.trace) (hrun : run k t = .next (x.afterSlot sl res es rest)) :
    ∃ u, Emits t u es rest ∧ InitAt d (j + seqStep .init j res) u ∧ u.cur = x.cur := by
  have hle := (seqStep_le .init j res).2
  have hseq : x.seq.toNat + seqStep x.op x.seq.toNat res = j + seqStep .init j res := by
    rw [h.op, h.seq]
  have hnat : (BitVec.ofNat 4 (j + seqStep .init j res)).toNat = j + seqStep .init j res :=
    Nat.mod_eq_of_lt (by omega)
  have hcount : slotCount x.op = 12 := by rw [h.op]; rfl
  have hdone : x.done = d := by rw [h.done, if_pos hj]
  rcases Nat.lt_or_ge (j + seqStep .init j res) 12 with hlt | hge
  · have hnext := run_next_slot hrun h.noRst (by rw [hseq, hcount]; exact hlt)
    rw [hseq] at hnext
    exact ⟨_, ⟨⟨_, hnext⟩, hh, congrArg (· ++ es) htr, rfl⟩,
      ⟨h.op, hnat, h.noRst, rfl, h.bound, (if_pos hlt).symm, by rw [if_pos hlt]; exact hdone, .inl hlt⟩, rfl⟩
  · have hnext := run_completion hrun h.noRst (by rw [hseq, hcount]; exact hge)
    rw [hseq, h.op] at hnext
    exact ⟨_, ⟨⟨_, hnext⟩, hh, congrArg (· ++ es) htr, rfl⟩,
      ⟨rfl, hnat, h.noRst, rfl, h.bound, (if_neg hge.not_gt).symm,
        by rw [if_neg hge.not_gt, ← hdone]; rfl, .inr rfl⟩, rfl⟩

/-- After any slot but the read slot of the read-modify-write that is the next slot. -/
theorem InitAt.next_of_not_read {d : List Completion} {j k : Nat} {t x : State} {sl : Slot} {res : Result}
    {es : List Event} {rest : List Reply} (h : InitAt d j x) (hj : j < 12)
    (hstep : isRmwRead .init j = false) (hh : x.handle = t.handle) (htr : x.trace = t.trace)
    (hrun : run k t = .next (x.afterSlot sl res es rest)) :
    ∃ u, Emits t u es rest ∧ InitAt d (j + 1) u := by
  obtain ⟨u, hu, hi, -⟩ := h.next hj hh htr hrun
  rw [seqStep_of_not_read hstep] at hi
  exact ⟨u, hu, hi⟩

/-! ## INIT: the calls of its pseudocode -/

/-- The call `f` of `init` on the handle `h` is what the controller does from slot `j` to slot `j'`. -/
def CallRuns (h : Pseudo.Handle) (j j' : Nat) (f : List Answer → Option Pseudo.Run) : Prop :=
  ∀ (d : List Completion) (t : State) (as : List Answer) (rest : List Reply) (x : Pseudo.Run),
    InitAt d j t → t.handle = h → t.replies = as.map Reply.given ++ rest → f as = some x →
    ∃ u, Emits t u x.events (x.rest.map Reply.given ++ rest) ∧ InitAt d j' u

theorem callRuns_memWrite {h : Pseudo.Handle} {j : Nat} {r : RegIndex} {v : List Byte} (hj : j < 12)
    (hstep : isRmwRead .init j = false) (hslot : ∀ c, initSlot c j = some (writeSlot r v)) :
    CallRuns h j (j + 1) (Pseudo.memWrite h r v) := by
  rintro d t as rest x hi rfl hq hx
  exact hi.next_of_not_read hj hstep rfl rfl ((hi.atSlot hj (hslot _)).run_memWrite hq hx)

/-- A read whose byte is kept nowhere (R118). -/
theorem callRuns_memRead {h : Pseudo.Handle} {j : Nat} {r : RegIndex} {n : Nat} (hj : j < 12)
    (hstep : isRmwRead .init j = false) (hslot : ∀ c, initSlot c j = some (readSlot r n .discard)) :
    CallRuns h j (j + 1) (Pseudo.memRead h r n) := by
  rintro d t as rest x hi rfl hq hx
  exact hi.next_of_not_read hj hstep rfl rfl ((hi.atSlot hj (hslot _)).run_memRead (by decide) hq hx)

/-- A failed read slot is followed by the slot after the write slot (R95, R116). -/
theorem callRuns_readModifyWrite {h : Pseudo.Handle} {j : Nat} {r : RegIndex} {f : Byte → Byte}
    (hj : isRmwRead .init j = true) (hread : ∀ c, initSlot c j = some (readSlot r 1 .cur))
    (hwrite : ∀ c, initSlot c (j + 1) = some (writeSlot r [f c])) :
    CallRuns h j (j + 2) (Pseudo.readModifyWrite h r f) := by
  rintro d t as rest x hi rfl hq hx
  obtain ⟨hj', hstep⟩ := isRmwRead_succ hj
  have hj12 : j < 12 := (Nat.lt_succ_self j).trans hj'
  have hslot := hi.atSlot hj12 (hread _)
  rcases Pseudo.readModifyWrite_cases hx with ⟨es, as', hm, rfl⟩ | ⟨es, c, as', y, hm, hy, rfl⟩
  · obtain ⟨u, hu, hiu, -⟩ := hi.next hj12 rfl rfl (hslot.run_memRead (by decide) hq hm)
    rw [seqStep, hj] at hiu
    exact ⟨u, hu, hiu⟩
  · obtain ⟨u, hu, hiu, hc⟩ := (hi.deliver .cur [c]).next (t := t) hj12 rfl rfl
      (hslot.run_memRead (by decide) hq hm)
    rw [seqStep_ok] at hiu
    rw [← hu.handle] at hy
    have hwr : initSlot u.cur (j + 1) = some (writeSlot r [f c]) := by rw [hwrite, hc]; rfl
    obtain ⟨v, hv, hiv⟩ := hiu.next_of_not_read hj' hstep rfl rfl
      ((hiu.atSlot hj' hwr).run_memWrite hu.replies hy)
    exact ⟨v, hu.trans hv, hiv⟩

theorem callRuns_nil (h : Pseudo.Handle) (j : Nat) : CallRuns h j j (Pseudo.discarding []) := by
  intro d t as rest x hi _ hq hx
  cases hx
  rw [← hq]
  exact ⟨t, Emits.refl t, hi⟩

/-- A call and the calls after it. -/
theorem callRuns_cons {h : Pseudo.Handle} {i j n : Nat} {f : List Answer → Option Pseudo.Run}
    {fs : List (List Answer → Option Pseudo.Run)} (hf : CallRuns h i j f)
    (hfs : CallRuns h j n (Pseudo.discarding fs)) : CallRuns h i n (Pseudo.discarding (f :: fs)) := by
  intro d t as rest x hi hh hq hx
  rcases hy : f as with _ | y
  · simp [Pseudo.discarding, hy] at hx
  · simp only [Pseudo.discarding, hy] at hx
    obtain ⟨z, hz, rfl⟩ := Option.map_eq_some_iff.mp hx
    obtain ⟨u, hu, hiu⟩ := hf _ _ _ _ _ hi hh hq hy
    obtain ⟨v, hv, hiv⟩ := hfs _ _ _ _ _ hiu (hu.handle.trans hh) hu.replies hz
    exact ⟨v, hu.trans hv, hiv⟩

/-- Calls whose results are discarded end with Ok (R117). -/
theorem Pseudo.discarding_res {fs : List (List Answer → Option Pseudo.Run)} {as : List Answer}
    {x : Pseudo.Run} (hx : Pseudo.discarding fs as = some x) : x.res = .ok := by
  induction fs generalizing as x with
  | nil =>
    cases hx
    rfl
  | cons f fs ih =>
    rcases hy : f as with _ | y
    · simp [Pseudo.discarding, hy] at hx
    · simp only [Pseudo.discarding, hy] at hx
      obtain ⟨z, hz, rfl⟩ := Option.map_eq_some_iff.mp hx
      exact ih (x := z) hz

/-- The eleven calls of `init` are the twelve slots of R115: `antenna_on` is two of them. -/
theorem callRuns_init (h : Pseudo.Handle) : CallRuns h 0 12 (Pseudo.init h) := by
  change CallRuns h 0 12 (Pseudo.discarding (Pseudo.initCalls h))
  iterate 9 refine callRuns_cons (callRuns_memWrite (by decide) rfl fun _ => rfl) ?_
  refine callRuns_cons (callRuns_readModifyWrite rfl (fun _ => rfl) fun _ => rfl) ?_
  exact callRuns_cons (callRuns_memRead (by decide) rfl fun _ => rfl) (callRuns_nil h 12)

/-- INIT binds the handle and runs its calls on it. -/
theorem Ready.refines_init {s : State} (hr : Ready s) {as : List Answer} {x : Pseudo.Run}
    (hq : s.replies = as.map Reply.given ++ []) {reg : RegIndex} {arg : Byte} {bus : BusRef}
    {port : PortRef} {pin : PinRef} (hx : Pseudo.init ⟨bus, port, pin⟩ as = some x) :
    Refines (.init reg arg bus port pin) s x := by
  let t := (s.accept .init reg arg).bind bus port pin
  have ht : InitAt s.done 0 t := ⟨rfl, rfl, hr.noRst, hr.level, rfl, rfl, rfl, .inr rfl⟩
  obtain ⟨u, hu, hi⟩ := callRuns_init ⟨bus, port, pin⟩ _ _ _ _ _ ht rfl hq hx
  obtain ⟨k, hk⟩ := hu.reached
  have hres : u.res = .ok := hi.result.resolve_left (by decide)
  have hxres : x.res = .ok := Pseudo.discarding_res hx
  refine ⟨t, u, k, atPort_idle hr.idle, hk, ⟨hi.phase, hi.level, hi.noRst⟩, hu.trace, hres.trans hxres.symm,
    hu.replies.trans (List.append_nil _), ⟨[], ?_, by simp [opOf]⟩, by simp [isInit], hi.bound⟩
  rw [hxres]
  exact hi.done

/-- Settles O30, command by command. -/
theorem stepMachineRefinesPseudocode : Obligations.StepMachineRefinesPseudocode := by
  intro i s as x hr hc hw hb hq hx
  change Refines i s x
  rw [← List.append_nil (as.map Reply.given)] at hq
  cases i
  case init => exact hr.refines_init hq hx
  case writeFrame | readFrame | select | deselect => cases hc
  all_goals
    have hbound : s.bound = true := hb.resolve_left Bool.false_ne_true
    have hport {t : State} := atPort_accepts (started := t) hr.idle (whyUnbound_of_bound hbound)
  case reset => exact hr.refines hbound hport (hr.run_reset _ _ hq hx) (by simp [opOf])
  case read => exact hr.refines_read hbound hq hw hx
  case write => exact hr.refines_write hbound hq hw hx
  case setBits => exact hr.refines_readModifyWrite hbound hq (hr.atReadModifyWrite_setBits _ _) hport hx
  case clearBits =>
    exact hr.refines_readModifyWrite hbound hq (hr.atReadModifyWrite_clearBits _ _) hport hx
  case antennaOn =>
    exact hr.refines_readModifyWrite hbound hq (hr.atReadModifyWrite_antennaOn _ _) hport hx
  case antennaOff =>
    exact hr.refines_readModifyWrite hbound hq (hr.atReadModifyWrite_antennaOff _ _) hport hx

end Sys2Proof.Machine
end

section
/-! PROOFS. Operations through the reference peer (R38, R100): the two transactions of one byte, the operations
made of them, and what a register reads after one or two of them. -/

namespace Sys2Proof.Machine

/-! ## A slot whose requests the reference peer answers -/

theorem Slot.framePad_addressByte (sl : Slot) : framePad sl.addressByte = false := by
  rw [Slot.addressByte]
  cases sl.kind
  · exact framePad_encW sl.reg
  · exact framePad_encR sl.reg

@[simp] theorem writeSlot_addressByte (r : RegIndex) (v : List Byte) :
    (writeSlot r v).addressByte = encW r := rfl

@[simp] theorem writeSlot_data (r : RegIndex) (v : List Byte) : (writeSlot r v).data = v := rfl

@[simp] theorem readSlot_addressByte (r : RegIndex) (n : Nat) (d : Dest) :
    (readSlot r n d).addressByte = encR r := rfl

@[simp] theorem readSlot_len (r : RegIndex) (n : Nat) (d : Dest) : (readSlot r n d).len = n := rfl

@[simp] theorem readSlot_dest (r : RegIndex) (n : Nat) (d : Dest) : (readSlot r n d).dest = d := rfl

/-- The state in T_DATA, the address byte answered by the reference peer. -/
def State.atDataPeer (s : State) (sl : Slot) (rest : List Reply) : State :=
  { s with
    phase := .tData
    cs := csActive
    addr := sl.addressByte
    res := .ok
    trace := s.trace ++ [s.evCS csActive, s.evTx [sl.addressByte] (.ok [])]
    replies := rest
    peer := { s.peer with frame := frameOf sl.addressByte } }

/-- The reference peer takes any address byte of the block. -/
theorem AtSlot.run_address_peer {s : State} {sl : Slot} (h : AtSlot s sl) {rest : List Reply}
    (hq : s.replies = .fromPeer :: rest) : run 2 s = .next (s.atDataPeer sl rest) := by
  have hpeer := Peer.onRequest_await (p := (s.atAddr sl).peer) rfl sl.framePad_addressByte
  have hstep := h.step_addr.trans (sendAddress_peer (s := s.atAddr sl) hq hpeer)
  rw [run_succ 1 h.step_sel, run_succ 0 hstep, run_zero]
  simp [State.atDataPeer, State.atAddr, State.setPhase, State.pinSet, State.openSlot, State.clearRes,
    State.evCS, State.evTx]

theorem AtSlot.step_data_peer {s : State} {sl : Slot} (h : AtSlot s sl) (rest : List Reply) :
    step (s.atDataPeer sl rest) = movePayload sl (s.atDataPeer sl rest) := by
  have hr : (s.atDataPeer sl rest).rst = [] := h.noRst
  have hs : (s.atDataPeer sl rest).slot = some sl := h.slot
  rw [step_row (State.rstNow_of_nil hr), State.afterRst_of_nil hr,
    stepPhase_tData (s := s.atDataPeer sl rest) rfl hs rfl]

/-- A step to T_DESEL and the release of the line. -/
theorem run_then_desel {s t : State} (h : step s = .next t) (hp : t.phase = .tDesel) (hr : t.rst = []) :
    run 2 s = .next ((t.pinSet csInactive).setPhase .tNext) :=
  (run_succ 1 h).trans (run_succ 0 (step_desel hp hr))

/-- A write transaction of one byte stores it. -/
theorem AtSlot.run_write_peer {s : State} {r : RegIndex} {v : Byte} (h : AtSlot s (writeSlot r [v]))
    {rest : List Reply} (hq : s.replies = .fromPeer :: .fromPeer :: rest)
    (hw : s.peer.readOnly r = false) :
    run 4 s = .next (State.afterSlot
      { s with peer := { s.peer with mem := s.peer.mem.write r.toNat v } } (writeSlot r [v]) .ok
      [s.evCS csActive, s.evTx [encW r] (.ok []), s.evTx [v] (.ok []), s.evCS csInactive] rest) := by
  let u := s.atDataPeer (writeSlot r [v]) (.fromPeer :: rest)
  have hpeer := Peer.onRequest_wr (p := u.peer) (frameOf_encW r) v
  rw [Peer.store_of_writable (p := u.peer) hw] at hpeer
  have hstep := (h.step_data_peer _).trans (sendPayload_peer (s := u) rfl hpeer)
  refine ((run_add 2 (h.run_address_peer hq)).trans (run_then_desel hstep rfl h.noRst)).trans ?_
  simp [State.afterSlot, State.atDataPeer, State.setPhase, State.pinSet, State.evCS, State.evTx, u]

/-- A read transaction of one byte delivers the register. -/
theorem AtSlot.run_read_peer {s : State} {r : RegIndex} {d : Dest} (h : AtSlot s (readSlot r 1 d))
    {rest : List Reply} (hq : s.replies = .fromPeer :: .fromPeer :: rest) :
    run 4 s = .next ((s.deliver d [s.peer.mem.read r.toNat]).afterSlot (readSlot r 1 d) .ok
      [s.evCS csActive, s.evTx [encR r] (.ok []), s.evRx 1 (.ok [s.peer.mem.read r.toNat]),
       s.evCS csInactive] rest) := by
  let u := s.atDataPeer (readSlot r 1 d) (.fromPeer :: rest)
  have hpeer := Peer.onRequest_rd (p := u.peer) (frameOf_encR r)
  have hstep := (h.step_data_peer _).trans (receivePayload_peer (s := u) (sl := readSlot r 1 d) rfl hpeer)
  refine ((run_add 2 (h.run_address_peer hq)).trans (run_then_desel hstep rfl h.noRst)).trans ?_
  simp [State.deliver_eq, State.afterSlot, State.atDataPeer, State.setPhase, State.pinSet, State.evCS,
    State.evTx, State.evRx, u]

/-! ## Operations through the reference peer -/

/-- The block is ready and bound, the reference peer's register `r`, which is not read-only, holds `c`, and
these are the replies to come. -/
structure Peered (r : RegIndex) (c : Byte) (replies : List Reply) (s : State) : Prop where
  ready    : Ready s
  bound    : s.bound = true
  memory   : s.peer.mem.wf = true
  writable : s.peer.readOnly r = false
  holds    : s.peer.mem.read r.toNat = c
  replies  : s.replies = replies

/-- A run of an accepted command. -/
theorem runOp_accepted {i : Instr} {k : Nat} {s t : State} (h : exec i s = .next t) :
    runOp i k s = run k t := by
  rw [runOp, h]

section
variable {s : State} {r : RegIndex} {c : Byte} {rest : List Reply}

/-- `write` stores its byte. -/
theorem Peered.write (h : Peered r c (.fromPeer :: .fromPeer :: rest) s) (v : Byte) :
    ∃ u, runOp (.write r 1#8 [v]) 5 s = .next u ∧ u.res = .ok ∧ Peered r v rest u := by
  have ht := h.ready.exec_write h.bound (r := r) (len := 1#8) (v := [v]) rfl
  have hslot : AtSlot { s.accept .write r 1#8 with wbuf := [v] } (writeSlot r [v]) :=
    ⟨rfl, h.ready.noRst, rfl⟩
  have hrun := run_completion (hslot.run_write_peer h.replies h.writable) h.ready.noRst (le_refl 1)
  exact ⟨_, (runOp_accepted ht).trans hrun, rfl, ⟨rfl, rfl, h.ready.noRst⟩, h.bound,
    Memory.write_wf _ v (by omega) h.memory, h.writable, Memory.read_write_self v h.memory, rfl⟩

/-- `read` presents the register and leaves it alone. -/
theorem Peered.read (h : Peered r c (.fromPeer :: .fromPeer :: rest) s) :
    ∃ u, runOp (.read r 1#8) 5 s = .next u ∧ u.res = .ok ∧ Peered r c rest u ∧ u.rbuf = [c] := by
  have ht := h.ready.exec_read h.bound (r := r) (len := 1#8) rfl
  have hslot : AtSlot _ (readSlot r 1 .rbuf) := h.ready.atSlot_read r 1#8
  have hrun := run_completion (hslot.run_read_peer h.replies) h.ready.noRst (le_refl 1)
  exact ⟨_, (runOp_accepted ht).trans hrun, rfl, ⟨⟨rfl, rfl, h.ready.noRst⟩, h.bound, h.memory, h.writable,
    h.holds, rfl⟩, congrArg (fun b => [b]) h.holds⟩

/-- A read-modify-write stores what it makes of the byte it read. -/
theorem Peered.readModifyWrite
    (h : Peered r c (.fromPeer :: .fromPeer :: .fromPeer :: .fromPeer :: rest) s) {i : Instr} {o : Op}
    {reg : RegIndex} {arg : Byte} {f : Byte → Byte} (ht : exec i s = .next (s.accept o reg arg))
    (hm : AtReadModifyWrite (s.accept o reg arg) r f) :
    ∃ u, runOp i 10 s = .next u ∧ u.res = .ok ∧ Peered r (f c) rest u := by
  obtain rfl := h.holds
  have hread := hm.run_read (hm.read.run_read_peer h.replies)
  have hboth := (run_add 4 hread).trans ((hm.atSlot_write _ _ _).run_write_peer rfl h.writable)
  rcases isRmwRead_zero hm.isRead with rfl | rfl | rfl | rfl
  all_goals
    have hrun := run_completion hboth h.ready.noRst (le_refl 2)
    exact ⟨_, (runOp_accepted ht).trans hrun, rfl, ⟨rfl, rfl, h.ready.noRst⟩, h.bound,
      Memory.write_wf _ _ (by omega) h.memory, h.writable, Memory.read_write_self _ h.memory, rfl⟩

theorem Peered.setBits (h : Peered r c (.fromPeer :: .fromPeer :: .fromPeer :: .fromPeer :: rest) s)
    (m : Byte) : ∃ u, runOp (.setBits r m) 10 s = .next u ∧ u.res = .ok ∧ Peered r (setMask c m) rest u :=
  h.readModifyWrite (i := .setBits r m) (atPort_accepts h.ready.idle (whyUnbound_of_bound h.bound))
    (h.ready.atReadModifyWrite_setBits r m)

theorem Peered.clearBits (h : Peered r c (.fromPeer :: .fromPeer :: .fromPeer :: .fromPeer :: rest) s)
    (m : Byte) :
    ∃ u, runOp (.clearBits r m) 10 s = .next u ∧ u.res = .ok ∧ Peered r (clearMask c m) rest u :=
  h.readModifyWrite (i := .clearBits r m) (atPort_accepts h.ready.idle (whyUnbound_of_bound h.bound))
    (h.ready.atReadModifyWrite_clearBits r m)

end

/-! ## Two operations, one after the other (R100) -/

theorem clearMask_setMask (c m : Byte) : clearMask (setMask c m) m = clearMask c m := by
  ext i
  simp only [setMask, clearMask, BitVec.getElem_or, BitVec.getElem_and, BitVec.getElem_not]
  cases m[i] <;> simp

theorem setMask_clearMask (c m : Byte) : setMask (clearMask c m) m = setMask c m := by
  ext i
  simp only [setMask, clearMask, BitVec.getElem_or, BitVec.getElem_and, BitVec.getElem_not]
  cases m[i] <;> simp

/-- Settles O48: each first operation leaves the register known, and the second finds it so. -/
theorem readBackThroughReferencePeer : Obligations.ReadBackThroughReferencePeer := by
  rintro s r m v rest c hr hb hmem hro hq rfl
  have h : Peered r (s.peer.mem.read r.toNat) (List.replicate 8 .fromPeer ++ rest) s :=
    ⟨hr, hb, hmem, hro, rfl, hq⟩
  obtain ⟨u, hu, hur, hup⟩ := h.setBits m
  obtain ⟨w, hw, hwr, hwp⟩ := h.clearBits m
  obtain ⟨x, hx, hxr, hxp⟩ := h.write v
  refine ⟨?_, ?_, ?_, ?_, ?_⟩
  · obtain ⟨z, hz, hzr, hzp, hbuf⟩ := hup.read
    exact ⟨u, z, hu, hz, hup.ready, hur, hzp.ready, hzr, hbuf⟩
  · obtain ⟨z, hz, hzr, hzp, hbuf⟩ := hwp.read
    exact ⟨w, z, hw, hz, hwp.ready, hwr, hzp.ready, hzr, hbuf⟩
  · obtain ⟨z, hz, hzr, hzp, hbuf⟩ := hxp.read
    exact ⟨x, z, hx, hz, hxp.ready, hxr, hzp.ready, hzr, hbuf⟩
  · obtain ⟨z, hz, hzr, hzp⟩ := hup.clearBits m
    exact ⟨u, z, hu, hz, hup.ready, hur, hzp.ready, hzr, hzp.holds.trans (clearMask_setMask _ m)⟩
  · obtain ⟨z, hz, hzr, hzp⟩ := hwp.setBits m
    exact ⟨w, z, hw, hz, hwp.ready, hwr, hzp.ready, hzr, hzp.holds.trans (setMask_clearMask _ m)⟩

end Sys2Proof.Machine
end

section
/-! PROOFS. The bring-up sequencer where the transport answers by itself: INIT's acceptance (R114), the one
transaction of `reset` (R110), the read-modify-writes of the antenna operations (R111, R112), and INIT with
every request answered `ok`, slot by slot of R115. -/

namespace Sys2Proof.Machine

/-! ## INIT's acceptance -/

/-- Settles O14: INIT has no refusal, and starts bound (R114, R121). -/
theorem initBindsAtAcceptance : Obligations.InitBindsAtAcceptance :=
  fun _ _ _ _ _ _ hp => atPort_idle hp

/-! ## RESET, ANTENNA_ON and ANTENNA_OFF -/

/-- Settles O24: `reset` is one `MemWrite`, which can end in three ways. -/
theorem resetOutcomes : Obligations.ResetOutcomes := by
  intro s r a b₁ b₂ rest hr hb
  exact ⟨_, atPort_accepts hr.idle (whyUnbound_of_bound hb),
    fun hq => ⟨_, hr.run_reset r a (as := [.ok b₁, .ok b₂]) hq rfl⟩,
    fun hq => ⟨_, hr.run_reset r a (as := [.ok b₁, .fail]) hq rfl⟩,
    fun hq => ⟨_, hr.run_reset r a (as := [.fail]) hq rfl⟩⟩

/-- Setting the antenna mask sets bits 1:0 and leaves bits 7:2 (R22, R111). -/
theorem setMask_antMask (c : Byte) : setMask c antMask = c.extractLsb' 2 6 ++ 0b11#2 := by
  revert c; decide

/-- Clearing the antenna mask clears bits 1:0 and leaves bits 7:2 (R22, R112). -/
theorem clearMask_antMask (c : Byte) : clearMask c antMask = c.extractLsb' 2 6 ++ 0b00#2 := by
  revert c; decide

/-- Settles O25: the read-modify-write of R95 that sets the antenna mask. -/
theorem antennaOnOutcomes : Obligations.AntennaOnOutcomes := by
  intro s r a c b₁ b₃ b₄ rest hr hb
  rw [← setMask_antMask]
  exact ⟨_, atPort_accepts hr.idle (whyUnbound_of_bound hb),
    hr.readModifyWrite_outcomes (hr.atReadModifyWrite_antennaOn r a) c b₁ b₃ b₄ rest⟩

/-- Settles O26: the read-modify-write of R95 that clears the antenna mask. -/
theorem antennaOffOutcomes : Obligations.AntennaOffOutcomes := by
  intro s r a c b₁ b₃ b₄ rest hr hb
  rw [← clearMask_antMask]
  exact ⟨_, atPort_accepts hr.idle (whyUnbound_of_bound hb),
    hr.readModifyWrite_outcomes (hr.atReadModifyWrite_antennaOff r a) c b₁ b₃ b₄ rest⟩

/-! ## INIT with every request answered `ok` -/

/-- The events of a write transaction answered `ok` (W1 of R99). -/
def State.wroteOk (r : RegIndex) (v : List Byte) (s : State) : List Event :=
  [s.evCS csActive, s.evTx [encW r] (.ok []), s.evTx v (.ok []), s.evCS csInactive]

/-- The events of a read transaction of one byte answered `ok` (RD1 of R99). -/
def State.readOk (r : RegIndex) (b : Byte) (s : State) : List Event :=
  [s.evCS csActive, s.evTx [encR r] (.ok []), s.evRx 1 (.ok [b]), s.evCS csInactive]

/-- T_NEXT of slot `j` of the INIT accepted in `t`: the slot was `sl`, CUR is `c`, and the slots so far have
emitted `es`. -/
def State.afterInitSlot (j : Nat) (sl : Slot) (c : Byte) (es : List Event) (rest : List Reply) (t : State) :
    State :=
  State.afterSlot { t with seq := BitVec.ofNat 4 j, cur := c } sl .ok es rest

section
variable {t : State} (hop : t.op = .init) (hn : t.rst = []) {j : Nat} (hj : j + 1 < 12) {sl sl' : Slot}
  {c : Byte} {es : List Event} {b₁ b₂ : List Byte} {rest : List Reply}
  {k : Nat} {o : Host.Outcome State Fault Refusal}
include hop hn hj

/-- T_NEXT leads to T_SEL of slot `j + 1`. -/
theorem run_afterInitSlot : run 1 (t.afterInitSlot j sl c es rest) =
    .next { t.afterInitSlot (j + 1) sl c es rest with phase := .tSel } := by
  have hseq : (BitVec.ofNat 4 j).toNat = j := Nat.mod_eq_of_lt (by omega)
  have hlt : j + 1 < slotCount t.op := by rw [hop]; exact hj
  rw [run_next_slot (x := { t with seq := BitVec.ofNat 4 j, cur := c }) rfl hn] <;>
    rw [hseq, seqStep_ok]
  · rfl
  · exact hlt

/-- T_SEL of slot `j + 1` is the start of that slot of R115. -/
theorem atSlot_afterInitSlot (hs : initSlot c (j + 1) = some sl') :
    AtSlot { t.afterInitSlot (j + 1) sl c es rest with phase := .tSel } sl' where
  phase := rfl
  noRst := hn
  slot := by
    have hseq : (BitVec.ofNat 4 (j + 1)).toNat = j + 1 := Nat.mod_eq_of_lt (by omega)
    simp only [State.slot, State.afterInitSlot, State.afterSlot, hop, hseq, hs]

/-- A run through a write slot after slot `j`. -/
theorem run_initWrite {r : RegIndex} {v : List Byte} (hs : initSlot c (j + 1) = some (writeSlot r v))
    (h : run k (t.afterInitSlot (j + 1) (writeSlot r v) c (es ++ t.wroteOk r v) rest) = o) :
    run (k + 5) (t.afterInitSlot j sl c es (.given (.ok b₁) :: .given (.ok b₂) :: rest)) = o := by
  rw [Nat.add_comm, ← h]
  refine run_add k ?_
  rw [run_add 4 (run_afterInitSlot hop hn hj), (atSlot_afterInitSlot hop hn hj hs).run_write_ok rfl rfl]
  simp only [State.afterInitSlot, State.afterSlot, List.append_assoc]
  rfl

/-- A run through a read slot of one byte after slot `j`. -/
theorem run_initRead {r : RegIndex} {b : Byte} {d : Dest} (hd : d ≠ .rbuf)
    (hs : initSlot c (j + 1) = some (readSlot r 1 d))
    (h : run k (t.afterInitSlot (j + 1) (readSlot r 1 d) (if d = .cur then b else c)
      (es ++ t.readOk r b) rest) = o) :
    run (k + 5) (t.afterInitSlot j sl c es (.given (.ok b₁) :: .given (.ok [b]) :: rest)) = o := by
  rw [Nat.add_comm, ← h]
  refine run_add k ?_
  rw [run_add 4 (run_afterInitSlot hop hn hj), (atSlot_afterInitSlot hop hn hj hs).run_read_ok rfl rfl rfl]
  simp only [State.deliver_eq, readSlot_dest, if_neg hd, State.afterInitSlot, State.afterSlot,
    List.append_assoc]
  rfl

end

/-- Settles O27: slot 0 follows acceptance, slots 1 to 11 of R115 follow one another, and T_NEXT completes
INIT. -/
theorem initTraceWhenAllAnswered : Obligations.InitTraceWhenAllAnswered := by
  rintro s h r a c v bus port pin rest hr rfl hq
  obtain ⟨s, rfl⟩ := hr.exists_released
  let t := (s.released.accept .init r a).bind bus port pin
  have hop : t.op = .init := rfl
  have hn : t.rst = [] := hr.noRst
  have hslot : AtSlot t (writeSlot Config.regCommand [Config.valResetCmd]) := ⟨rfl, hn, rfl⟩
  have hrun : run 4 t = .next (t.afterInitSlot 0 _ t.cur (t.wroteOk _ _) _) := hslot.run_write_ok rfl hq
  refine ⟨t, atPort_idle hr.idle, (run_add 56 hrun).trans ?_⟩
  iterate 8 refine run_initWrite hop hn (by decide) rfl ?_
  refine run_initRead hop hn (by decide) (by decide) rfl ?_
  refine run_initWrite hop hn (by decide) rfl ?_
  refine run_initRead hop hn (by decide) (by decide) rfl ?_
  exact run_completion (k := 0) rfl hn (le_refl 12)

end Sys2Proof.Machine
end

section
/-! PROOFS. INIT whatever the transport answers (R113 to R119): an induction over the slots still to come, each
at most four steps of R96 and one at T_NEXT. -/

namespace Sys2Proof.Machine

/-- SEQ after slot `j` of INIT: the next slot, but slot 11 after a failed slot 9 (R116). -/
theorem add_seqStep_init (j : Nat) (r : Result) :
    j + seqStep .init j r = j + 1 ∨ (j = 9 ∧ j + seqStep .init j r = 11) := by
  by_cases hj : j = 9
  · subst hj
    by_cases hr : r = .transferError <;> simp [seqStep, isRmwRead, hr]
  · exact .inl (by rw [seqStep_of_not_read (by simpa [isRmwRead] using hj)])

/-- T_NEXT after slot `j`, however it ended. -/
theorem InitAt.advance {d : List Completion} {j : Nat} {t x : State} (h : InitAt d j t) (hj : j < 12)
    (hd : SlotDone t x) : InitAt d (j + seqStep .init j x.res) x.advance := by
  have hop : x.op = .init := hd.op.trans h.op
  have hseq : x.seq.toNat = j := (congrArg BitVec.toNat hd.seq).trans h.seq
  have hdone : x.done = d := hd.done.trans (by rw [h.done, if_pos hj])
  have hlt : x.seq.toNat < slotCount x.op := by rw [hseq, hop]; exact hj
  have hsum : x.seq.toNat + seqStep x.op x.seq.toNat x.res = j + seqStep .init j x.res := by
    rw [hseq, hop]
  have hnat := seq_advance_toNat hlt
  rw [hsum] at hnat
  rcases Nat.lt_or_ge (j + seqStep .init j x.res) 12 with hn | hn
  · rw [State.advance_of_lt (by rw [hsum, hop]; exact hn), hsum]
    exact ⟨hop, hnat, hd.noRst, hd.level, hd.bound.trans h.bound, (if_pos hn).symm,
      hdone.trans (if_pos hn).symm, .inl hn⟩
  · rw [State.advance_of_ge (by rw [hsum, hop]; exact hn), hsum]
    refine ⟨hop, hnat, hd.noRst, hd.level, hd.bound.trans h.bound, (if_neg hn.not_gt).symm, ?_, .inr ?_⟩
    · rw [if_neg hn.not_gt, State.complete_done, hdone]
      simp [State.completion, hop, finalRes]
    · simp [hop, finalRes]

/-- A slot of INIT and T_NEXT after it lead from slot `j` to slot `j'` with the events `es`. -/
structure InitSlotRuns (d : List Completion) (j j' : Nat) (t u : State) (es : List Event) : Prop where
  slot    : j < 12
  next    : j' = j + 1 ∨ (j = 9 ∧ j' = 11)
  stands  : InitAt d j' u
  handle  : u.handle = t.handle
  trace   : u.trace = t.trace ++ es
  atLeast : 3 ≤ es.length
  atMost  : es.length ≤ 4
  address : ∃ sl x, initSlot t.cur j = some sl ∧ Pseudo.tx t.handle [sl.addressByte] x ∈ es

/-- From T_SEL of slot `j` where the transport answers two requests. -/
theorem InitAt.run_slot {d : List Completion} {j : Nat} {t : State} (h : InitAt d j t) (hj : j < 12)
    {a₁ a₂ : Answer} {as : List Answer} {rest : List Reply}
    (hq : t.replies = (a₁ :: a₂ :: as).map Reply.given ++ rest) :
    ∃ k u es j', ∃ as' : List Answer, k ≤ 5 ∧ run k t = .next u ∧ InitSlotRuns d j j' t u es ∧
      u.replies = as'.map Reply.given ++ rest ∧ as.length ≤ as'.length := by
  obtain ⟨sl, hsl⟩ := State.slot_of_lt (s := t) (by rw [h.seq, h.op]; exact hj)
  have hinit : initSlot t.cur j = some sl := by rw [← hsl, State.slot, h.op, h.seq]
  obtain ⟨k, x, es, as', hk, hrun, hd, htr, hmin, hmax, ⟨a, ha⟩, hq', hlen⟩ :=
    (h.atSlot hj hinit).completes hq
  have hkeep := x.advance_keeps
  refine ⟨k + 1, x.advance, es, _, as', by omega, ?_,
    ⟨hj, add_seqStep_init j x.res, h.advance hj hd, ?_, hkeep.trace.trans htr, hmin, hmax, sl, a,
      hinit, ha⟩,
    hkeep.replies.trans hq', hlen⟩
  · exact (run_add 1 hrun).trans (run_succ 0 (step_next hd.phase hd.noRst))
  · simp only [State.handle, hkeep.hBus, hkeep.hPort, hkeep.hPin, hd.hBus, hd.hPort, hd.hPin]

/-- From slot `j` INIT completes, with three or four events for each slot still to come; slot 10 may be
missing, slots 9 and 11 are not. -/
structure InitCompletes (d : List Completion) (j : Nat) (t u : State) (new : List Event) : Prop where
  ends    : InitAt d 12 u
  handle  : u.handle = t.handle
  trace   : u.trace = t.trace ++ new
  atLeast : 3 * (12 - j) ≤ new.length + if j ≤ 9 then 3 else 0
  atMost  : new.length ≤ 4 * (12 - j)
  antenna : j ≤ 9 → ∃ x, Pseudo.tx t.handle [encR Config.regTxControl] x ∈ new
  version : j ≤ 11 → ∃ x, Pseudo.tx t.handle [encR regVersion] x ∈ new

/-- A slot before the ones that complete. -/
theorem InitCompletes.cons {d : List Completion} {j j' : Nat} {t u v : State} {es new : List Event}
    (h : InitCompletes d j' u v new) (hs : InitSlotRuns d j j' t u es) :
    InitCompletes d j t v (es ++ new) := by
  obtain ⟨hlt, hnext, -, hhandle, htrace, hmin, hmax, sl, a, hsl, ha⟩ := hs
  have hlo := h.atLeast
  have hhi := h.atMost
  refine ⟨h.ends, h.handle.trans hhandle, by rw [h.trace, htrace, List.append_assoc], ?_, ?_,
    fun hj => ?_, fun hj => ?_⟩
  · rw [List.length_append]
    split at hlo <;> split <;> omega
  · rw [List.length_append]
    omega
  · by_cases h9 : j = 9
    · subst h9
      cases hsl
      exact ⟨a, List.mem_append_left _ ha⟩
    · obtain ⟨x, hx⟩ := h.antenna (by omega)
      exact ⟨x, List.mem_append_right _ (hhandle ▸ hx)⟩
  · by_cases h11 : j = 11
    · subst h11
      cases hsl
      exact ⟨a, List.mem_append_left _ ha⟩
    · obtain ⟨x, hx⟩ := h.version (by omega)
      exact ⟨x, List.mem_append_right _ (hhandle ▸ hx)⟩

/-- Past the last slot there is nothing to do. -/
theorem InitAt.completes_nil {d : List Completion} {t : State} (h : InitAt d 12 t) :
    InitCompletes d 12 t t [] where
  ends := h
  handle := rfl
  trace := (List.append_nil _).symm
  atLeast := le_refl 0
  atMost := le_refl 0
  antenna hj := by omega
  version hj := by omega

/-- From slot `j` INIT completes, where the transport answers two requests for each of at most `n` slots to
come. -/
theorem InitAt.completes {n : Nat} {d : List Completion} {j : Nat} {t : State} (h : InitAt d j t)
    (hj : j ≤ 12) (hn : 12 ≤ j + n) {as : List Answer} {rest : List Reply} (hlen : 2 * n ≤ as.length)
    (hq : t.replies = as.map Reply.given ++ rest) :
    ∃ k u new, k ≤ 5 * n ∧ run k t = .next u ∧ InitCompletes d j t u new := by
  induction n generalizing j t as with
  | zero =>
    obtain rfl : j = 12 := by omega
    exact ⟨0, t, [], le_refl 0, rfl, h.completes_nil⟩
  | succ n ih =>
    rcases hj.eq_or_lt with rfl | hlt
    · exact ⟨0, t, [], Nat.zero_le _, rfl, h.completes_nil⟩
    · rcases as with _ | ⟨a₁, _ | ⟨a₂, as⟩⟩
      · simp at hlen
      · simp only [List.length_singleton] at hlen
        omega
      · obtain ⟨k, u, es, j', as', hk, hrun, hs, hq', hlen'⟩ := h.run_slot hlt hq
        simp only [List.length_cons] at hlen
        have hnext := hs.next
        obtain ⟨i, v, new, hi, hv, hc⟩ :=
          ih hs.stands (by omega) (by omega) (by omega) hq'
        exact ⟨k + i, v, es ++ new, by omega, (run_add i hrun).trans hv, hc.cons hs⟩

/-- Settles O28: INIT is accepted at slot 0 and runs to its completion. -/
theorem initAlwaysCompletesOk : Obligations.InitAlwaysCompletesOk := by
  intro s r a bus port pin as rest hr hlen hq
  let t := (s.accept .init r a).bind bus port pin
  have ht : InitAt s.done 0 t := ⟨rfl, rfl, hr.noRst, hr.level, rfl, rfl, rfl, .inr rfl⟩
  obtain ⟨k, u, new, hk, hrun, hu⟩ := ht.completes (n := 12) (by decide) (by decide) hlen.ge hq
  obtain ⟨hend, hhandle, htrace, hmin, hmax, hant, hver⟩ := hu
  obtain ⟨hbus, hport, hpin⟩ := Pseudo.Handle.mk.inj hhandle
  exact ⟨t, u, k, new, atPort_idle hr.idle, hk, hrun, ⟨hend.phase, hend.level, hend.noRst⟩,
    hend.result.resolve_left (by decide), hend.done, hend.bound, hbus, hport, hpin, htrace,
    Nat.le_of_add_le_add_right hmin, hmax, hant (by decide), hver (by decide)⟩

end Sys2Proof.Machine
end

section
/-! PROOFS. The one-line operations against their expansions (R62, R110 to R112): while the operation runs, the
state of its expansion differs in the latched command and in WBUF alone, and that makes no difference to any
row of R96. -/

namespace Sys2Proof.Machine

/-- The operation of the one line that `o` expands to (R62), `o` where it has no such expansion. -/
def Op.expansion (o : Op) : Op :=
  match o with
  | .reset => .write
  | .antennaOn => .setBits
  | .antennaOff => .clearBits
  | _ => o

/-- The state in which the expansion runs: `write REG_COMMAND, [VAL_RESET_CMD]`, or `set_bits` or `clear_bits`
with `REG_TXCONTROL, 0x03`. -/
def State.expansion (s : State) : State :=
  { s with
    op := s.op.expansion
    reg := match s.op with
      | .reset => Config.regCommand
      | .antennaOn | .antennaOff => Config.regTxControl
      | _ => s.reg
    arg := match s.op with
      | .reset => 1#8
      | .antennaOn | .antennaOff => antMask
      | _ => s.arg
    wbuf := match s.op with
      | .reset => [Config.valResetCmd]
      | _ => s.wbuf }

/-! ## What the state operations make of the expansion -/

/-- The slots are the same. -/
theorem State.expansion_slot (s : State) : s.expansion.slot = s.slot := by
  simp only [State.slot, State.expansion]
  cases s.op <;> rfl

theorem State.expansion_inFlight (s : State) : s.expansion.inFlight = s.inFlight := by
  simp only [State.inFlight, State.expansion_slot]
  rfl

theorem State.expansion_events (s : State) : s.expansion.events = s.events := by
  simp only [State.events, State.unanswered, State.expansion_inFlight]
  rfl

theorem State.expansion_deliver (s : State) (d : Dest) (v : List Byte) :
    s.expansion.deliver d v = (s.deliver d v).expansion := by
  rw [State.deliver_eq, State.deliver_eq]
  rfl

theorem State.expansion_spoil (s : State) (sl : Slot) :
    s.expansion.spoil sl = (s.spoil sl).expansion := by
  rw [State.spoil_eq, State.spoil_eq]
  rfl

theorem State.expansion_respond (s : State) (q : Request) :
    s.expansion.respond q = (s.respond q).mapState State.expansion := by
  have hreplies : s.expansion.replies = s.replies := rfl
  have hpeer : s.expansion.peer = s.peer := rfl
  simp only [State.respond, hreplies, hpeer]
  rcases s.replies with _ | ⟨_ | _, rest⟩
  · rfl
  · rfl
  · rcases s.peer.onRequest q with _ | ⟨p, x⟩ <;> rfl

/-! ## The rows of R96 inside an operation -/

theorem sendAddress_expansion (a : Byte) (s : State) :
    sendAddress a s.expansion = mapNext State.expansion (sendAddress a s) := by
  simp only [sendAddress, State.expansion_respond]
  rcases s.respond (.tx [a]) with _ | _ | ⟨_ | _, t⟩ <;> rfl

theorem sendPayload_expansion (sl : Slot) (s : State) :
    sendPayload sl s.expansion = mapNext State.expansion (sendPayload sl s) := by
  simp only [sendPayload, State.expansion_respond]
  rcases s.respond (.tx sl.data) with _ | _ | ⟨_ | _, t⟩ <;> rfl

theorem receivePayload_expansion (sl : Slot) (s : State) :
    receivePayload sl s.expansion = mapNext State.expansion (receivePayload sl s) := by
  simp only [receivePayload, State.expansion_respond]
  rcases s.respond (.rx sl.len) with _ | _ | ⟨_ | _, t⟩
  · rfl
  · rfl
  · exact congrArg (fun u => Host.Outcome.next (State.setPhase .tDesel u)) (t.expansion_deliver _ _)
  · exact congrArg (fun u => Host.Outcome.next (State.setPhase .tDesel u.raiseTransferError))
      (t.expansion_spoil _)

theorem runFrame_expansion {a : Byte} {move : Slot → State → Host.Outcome State Fault Refusal} {s : State}
    (hm : ∀ sl, move sl s.expansion = mapNext State.expansion (move sl s)) :
    runFrame a move s.expansion = mapNext State.expansion (runFrame a move s) := by
  have hphase : s.expansion.phase = s.phase := rfl
  simp only [runFrame, hphase, State.expansion_slot, sendAddress_expansion, hm]
  cases s.phase <;> cases s.slot <;> rfl

/-- T_ADDR and T_DATA. -/
theorem stepFrame_expansion (s : State) :
    stepFrame s.expansion = mapNext State.expansion (stepFrame s) := by
  have haddr : s.expansion.addr = s.addr := rfl
  simp only [stepFrame, haddr, decodeFrame]
  cases framePad s.addr
  · cases frameIsRead s.addr
    · exact runFrame_expansion fun sl => sendPayload_expansion sl s
    · exact runFrame_expansion fun sl => receivePayload_expansion sl s
  · rfl

/-- T_SEL. -/
theorem stepSel_expansion (s : State) : stepSel s.expansion = mapNext State.expansion (stepSel s) := by
  simp only [stepSel, State.expansion_slot]
  cases s.slot <;> rfl

/-! ## The end of an operation -/

/-- Both states stand in IDLE with nothing offered, and the same to show. -/
structure EndedAlike (s s' : State) : Prop where
  idle    : s.phase = .idle
  idle'   : s'.phase = .idle
  cmds    : s.cmds = []
  cmds'   : s'.cmds = []
  rst     : s'.rst = s.rst
  trace   : s'.trace = s.trace
  res     : s'.res = s.res
  results : s'.done.map Completion.res = s.done.map Completion.res

/-- Hardware reset ends an operation. -/
theorem EndedAlike.hardReset {s s' : State} (hc : s.cmds = []) (hc' : s'.cmds = []) (hr : s'.rst = s.rst)
    (hd : s'.done.map Completion.res = s.done.map Completion.res) :
    EndedAlike s.hardReset s'.hardReset :=
  ⟨rfl, rfl, hc, hc', hr, rfl, rfl, hd⟩

theorem EndedAlike.events {s s' : State} (h : EndedAlike s s') : s'.events = s.events := by
  simp only [State.events, State.unanswered, State.inFlight_idle h.idle, State.inFlight_idle h.idle',
    h.trace]

/-- With nothing offered they stay so. -/
theorem EndedAlike.step {s s' t : State} (h : EndedAlike s s') (ht : step s = .next t) :
    ∃ t', step s' = .next t' ∧ EndedAlike t t' := by
  have hnow : s'.rstNow = s.rstNow := by rw [State.rstNow, h.rst, State.rstNow]
  have htail : s'.rst.tail = s.rst.tail := congrArg List.tail h.rst
  cases hr : s.rstNow
  · rw [step_row hr, stepPhase_idle_nil (s := s.afterRst) h.idle h.cmds] at ht
    cases ht
    exact ⟨_, (step_row (hnow.trans hr)).trans (stepPhase_idle_nil (s := s'.afterRst) h.idle' h.cmds'),
      h.idle, h.idle', h.cmds, h.cmds', htail, h.trace, h.res, h.results⟩
  · rw [step_rst hr] at ht
    cases ht
    exact ⟨_, step_rst (hnow.trans hr), .hardReset h.cmds h.cmds' htail h.results⟩

/-- The expansion presents the same result. -/
theorem State.expansion_completion_res (s : State) : s.expansion.completion.res = s.completion.res := by
  simp only [State.completion, State.expansion]
  cases s.op <;> rfl

theorem seqStep_expansion (o : Op) (n : Nat) (r : Result) : seqStep o.expansion n r = seqStep o n r := by
  cases o <;> rfl

theorem slotCount_expansion (o : Op) : slotCount o.expansion = slotCount o := by
  cases o <;> rfl

/-! ## The step -/

/-- T_SEL, T_ADDR, T_DATA and T_DESEL. -/
theorem stepPhase_expansion {s : State} (hp : s.phase ≠ .idle) (hn : s.phase ≠ .tNext) :
    stepPhase s.expansion = mapNext State.expansion (stepPhase s) := by
  have hphase : s.expansion.phase = s.phase := rfl
  simp only [stepPhase, hphase]
  cases hq : s.phase
  case idle => exact absurd hq hp
  case tSel => exact stepSel_expansion s
  case tAddr => exact stepFrame_expansion s
  case tData => exact stepFrame_expansion s
  case tDesel => rfl
  case tNext => exact absurd hq hn

/-- Only T_NEXT leads back to IDLE. -/
theorem step_ne_idle {s t : State} (hr : s.rstNow = false) (hp : s.phase ≠ .idle) (hn : s.phase ≠ .tNext)
    (h : step s = .next t) : t.phase ≠ .idle := by
  rcases step_cases h with ⟨hr', _⟩ | ⟨_, ⟨hi, _⟩ | ⟨hi, _⟩ | ⟨_, sl, _, rfl⟩ | ⟨_, a, _, hm⟩ |
    ⟨_, rfl⟩ | ⟨hi, _⟩⟩
  · rw [hr] at hr'
    cases hr'
  · exact absurd hi hp
  · exact absurd hi hp
  · exact Phase.noConfusion
  · rcases hm with ⟨_, rfl⟩ | ⟨x, _, _, ⟨_, hq⟩ | ⟨b, _, hq⟩⟩ | ⟨sl, x, _, _, hq, _⟩
    · exact hp
    all_goals
      rw [hq]
      exact Phase.noConfusion
  · exact Phase.noConfusion
  · exact absurd hi hn

/-- The run of an operation and that of its expansion: still inside it, or both over. -/
def RunsAlike (s s' : State) : Prop :=
  (s.phase ≠ .idle ∧ s.cmds = [] ∧ s' = s.expansion) ∨ EndedAlike s s'

/-- T_NEXT starts the next slot in both, or completes both. -/
theorem RunsAlike.advance {s : State} (hc : s.cmds = []) : RunsAlike s.advance s.expansion.advance := by
  have hsum : s.expansion.seq.toNat + seqStep s.expansion.op s.expansion.seq.toNat s.expansion.res =
      s.seq.toNat + seqStep s.op s.seq.toNat s.res := congrArg _ (seqStep_expansion _ _ _)
  have hcount : slotCount s.expansion.op = slotCount s.op := slotCount_expansion _
  rcases Nat.lt_or_ge (s.seq.toNat + seqStep s.op s.seq.toNat s.res) (slotCount s.op) with hn | hn
  · rw [State.advance_of_lt hn, State.advance_of_lt (by rw [hsum, hcount]; exact hn), hsum]
    exact .inl ⟨Phase.noConfusion, hc, rfl⟩
  · rw [State.advance_of_ge hn, State.advance_of_ge (by rw [hsum, hcount]; exact hn), hsum]
    have hres := State.expansion_completion_res { s with
      seq := BitVec.ofNat 4 (s.seq.toNat + seqStep s.op s.seq.toNat s.res) }
    refine .inr ⟨rfl, rfl, hc, hc, rfl, rfl, hres, ?_⟩
    rw [State.complete_done, State.complete_done, List.map_append, List.map_append]
    exact congrArg (fun r => s.done.map Completion.res ++ [r]) hres

/-- Each step of the operation is a step of its expansion. -/
theorem RunsAlike.step {s s' t : State} (h : RunsAlike s s') (ht : step s = .next t) :
    ∃ t', step s' = .next t' ∧ RunsAlike t t' := by
  rcases h with ⟨hp, hc, rfl⟩ | h
  · cases hr : s.rstNow
    · have hr' : s.expansion.rstNow = false := hr
      by_cases hn : s.phase = .tNext
      · rw [step_row hr, stepPhase_tNext (s := s.afterRst) hn] at ht
        cases ht
        exact ⟨_, (step_row hr').trans (stepPhase_tNext (s := s.expansion.afterRst) hn),
          RunsAlike.advance (s := s.afterRst) hc⟩
      · have hrow := stepPhase_expansion (s := s.afterRst) hp hn
        rw [← step_row hr, ht] at hrow
        exact ⟨t.expansion, (step_row hr').trans hrow,
          .inl ⟨step_ne_idle hr hp hn ht, (step_cmds hp ht).trans hc, rfl⟩⟩
    · rw [step_rst hr] at ht
      cases ht
      exact ⟨_, step_rst (s := s.expansion) hr, .inr (.hardReset hc hc rfl rfl)⟩
  · obtain ⟨t', ht', ha⟩ := h.step ht
    exact ⟨t', ht', .inr ha⟩

/-- So is each run. -/
theorem RunsAlike.run {k : Nat} {s s' u : State} (h : RunsAlike s s') (hu : run k s = .next u) :
    ∃ u', run k s' = .next u' ∧ RunsAlike u u' := by
  induction k generalizing s s' with
  | zero =>
    cases hu
    exact ⟨s', rfl, h⟩
  | succ k ih =>
    rcases hs : Machine.step s with t | _ | _
    · obtain ⟨t', ht', hta⟩ := h.step hs
      rw [run_succ k hs] at hu
      rw [run_succ k ht']
      exact ih hta hu
    all_goals
      simp only [Machine.run, hs] at hu
      cases hu

/-! ## The operations -/

/-- What a caller and the outside see of two states is the same. -/
def SameShown (u u' : State) : Prop :=
  u'.events = u.events ∧ u'.phase = u.phase ∧ u'.res = u.res ∧
    u'.done.map Completion.res = u.done.map Completion.res

theorem RunsAlike.sameShown {u u' : State} (h : RunsAlike u u') : SameShown u u' := by
  rcases h with ⟨_, _, rfl⟩ | h
  · exact ⟨u.expansion_events, rfl, rfl, rfl⟩
  · exact ⟨h.events, h.idle'.trans h.idle.symm, h.res, h.results⟩

/-- A command and one whose acceptance gives the expansion: they wait alike outside IDLE and run alike from
it. -/
theorem sameShown_of_expansion {i j : Instr} {s t t' u : State} {k : Nat} (hi : isCommand i = true)
    (hj : isCommand j = true) (hc : s.cmds = []) (ht : exec i s = .next t) (ht' : exec j s = .next t')
    (he : s.phase = .idle → t' = t.expansion) (hu : run k t = .next u) :
    ∃ u', run k t' = .next u' ∧ SameShown u u' := by
  by_cases hp : s.phase = .idle
  · have ha := exec_accepted hi hp ht
    have h : RunsAlike t t' := .inl ⟨by simp [ha.phase], ha.cmds.trans hc, he hp⟩
    obtain ⟨u', hu', hr⟩ := h.run hu
    exact ⟨u', hu', hr.sameShown⟩
  · cases (exec_busy hi hp).symm.trans ht
    cases (exec_busy hj hp).symm.trans ht'
    exact ⟨u, hu, rfl, rfl, rfl, rfl⟩

/-- Settles O31: the expansion's acceptance leaves the expansion of what the operation's acceptance leaves. -/
theorem expansionsAgree : Obligations.ExpansionsAgree := by
  refine ⟨?_, ?_, ?_⟩ <;>
    · intro s t t' u r a k hc ht ht' hu
      refine sameShown_of_expansion rfl rfl hc ht ht' (fun hp => ?_) hu
      rw [atPort_started hp ht, atPort_started hp ht']
      rfl

end Sys2Proof.Machine
end

section
/-! PROOFS. The scratch latches an earlier operation left (R137, R165). Acceptance writes OP, REG, ARG, SEQ and
RES, so that two runs of one command differ at most in ADDR, CUR and the caller's buffers; and they differ there
only while the operation in progress does not read the latch before it writes it. -/

namespace Sys2Proof.Machine

/-- Values for ADDR, CUR, WBUF and RBUF. -/
structure Scratch where
  addr : Byte
  cur  : Byte
  wbuf : List Byte
  rbuf : List Byte

/-- The state with these values in ADDR, CUR, WBUF and RBUF. -/
def State.withScratch (x : Scratch) (s : State) : State :=
  { s with addr := x.addr, cur := x.cur, wbuf := x.wbuf, rbuf := x.rbuf }

/-- What the state holds there. -/
def State.scratch (s : State) : Scratch := ⟨s.addr, s.cur, s.wbuf, s.rbuf⟩

/-! ## The length of a receive -/

/-- The reference peer answers a receive of `n` bytes with `n` bytes. -/
theorem Peer.onRequest_rx_length {p p' : Peer} {n : Nat} {b : List Byte}
    (h : p.onRequest (.rx n) = some (p', .ok b)) : b.length = n := by
  by_cases hn : n = 1
  · subst hn
    cases hf : p.frame
    case rd i =>
      rw [Peer.onRequest_rd hf] at h
      cases h
      rfl
    all_goals simp [Peer.onRequest, hf] at h
  · rw [Peer.onRequest_rx_none hn] at h
    cases h

/-- A receive of `n` bytes answered `ok` brings `n` bytes, whoever answers it (R7). -/
theorem State.respond_rx_length {n : Nat} {b : List Byte} {s t : State}
    (h : s.respond (.rx n) = .answered (.ok b) t) : b.length = n := by
  rcases hq : s.replies with _ | ⟨(_ | _) | _, rest⟩
  · rw [State.respond_nil hq] at h
    cases h
  · rw [State.respond_rx_fit hq] at h
    cases h
    exact fitBytes_length _ _ _
  · rw [State.respond_fail hq] at h
    cases h
  · rcases hp : s.peer.onRequest (.rx n) with _ | ⟨p, a⟩
    · rw [State.respond_noMeaning hq hp] at h
      cases h
    · rw [State.respond_peer hq hp] at h
      cases h
      exact Peer.onRequest_rx_length hp

/-! ## When CUR is read -/

/-- The slot is the write slot of a read-modify-write, the slot after its read slot (R95). -/
def isRmwWrite (o : Op) (seq : Nat) : Bool :=
  match seq with
  | 0 => false
  | n + 1 => isRmwRead o n

/-- The operation in progress will read the value CUR has now: the write slot of a read-modify-write is in
progress, or is the one T_NEXT will start (R96). -/
def State.readsCur (s : State) : Bool :=
  match s.phase with
  | .idle => false
  | .tSel | .tAddr | .tData => isRmwWrite s.op s.seq.toNat
  | .tDesel | .tNext => isRmwWrite s.op (s.seq.toNat + seqStep s.op s.seq.toNat s.res)

theorem State.readsCur_of_open {s : State} (hp : s.phase = .tSel ∨ s.phase = .tAddr ∨ s.phase = .tData) :
    s.readsCur = isRmwWrite s.op s.seq.toNat := by
  rcases hp with hp | hp | hp <;> simp only [State.readsCur, hp]

theorem State.readsCur_of_released {s : State} (hp : s.phase = .tDesel ∨ s.phase = .tNext) :
    s.readsCur = isRmwWrite s.op (s.seq.toNat + seqStep s.op s.seq.toNat s.res) := by
  rcases hp with hp | hp <;> simp only [State.readsCur, hp]

/-- T_NEXT starts the write slot of a read-modify-write only after its read slot, answered `ok` (R95). -/
theorem isRmwRead_of_isRmwWrite_next {o : Op} {n : Nat} {r : Result}
    (h : isRmwWrite o (n + seqStep o n r) = true) : isRmwRead o n = true ∧ r ≠ .transferError := by
  cases hn : isRmwRead o n
  · rw [seqStep_of_not_read hn, isRmwWrite, hn] at h
    cases h
  · refine ⟨rfl, fun hr => ?_⟩
    rw [seqStep, hn, hr, decide_eq_true rfl, Bool.and_true, if_pos rfl, isRmwWrite,
      (isRmwRead_succ hn).2] at h
    cases h

/-- The read slot of a read-modify-write receives one byte into CUR (R95). -/
theorem State.slot_of_isRmwRead {s : State} (h : isRmwRead s.op s.seq.toNat = true) :
    ∃ r, s.slot = some (readSlot r 1 .cur) := by
  simp only [State.slot]
  rcases (isRmwRead_iff _ _).mp h with ⟨ho, hq⟩ | ⟨hq, ho | ho | ho | ho⟩ <;>
    (rw [ho, hq]; exact ⟨_, rfl⟩)

/-- In the slot table of `init` only slot 10 depends on CUR (R115). -/
theorem initSlot_congr {c c' : Byte} {n : Nat} (h : isRmwWrite .init n = true → c' = c) :
    initSlot c' n = initSlot c n := by
  by_cases hn : n = 10
  · rw [h (by rw [hn]; rfl)]
  · simp only [initSlot]
    split
    case h_11 => exact absurd rfl hn
    all_goals rfl

/-- Only the second slot of a read-modify-write depends on the byte to write back. -/
theorem rmwSlot_congr {r : RegIndex} {b b' : Byte} {n : Nat} (h : n = 1 → b' = b) :
    rmwSlot r b' n = rmwSlot r b n := by
  rcases n with _ | _ | n
  · rfl
  · rw [h rfl]
  · rfl

/-! ## What the state operations make of other scratch values -/

/-- The slot reads WBUF in WRITE and CUR in the write slot of a read-modify-write, and no other latch of
`Scratch`. -/
theorem State.withScratch_slot {x : Scratch} {s : State}
    (hc : isRmwWrite s.op s.seq.toNat = true → x.cur = s.cur) (hw : s.op = .write → x.wbuf = s.wbuf) :
    (s.withScratch x).slot = s.slot := by
  simp only [State.slot, State.withScratch]
  cases ho : s.op <;> rw [ho] at hc hw
  case init => exact initSlot_congr hc
  case write => simp only [hw rfl]
  all_goals exact rmwSlot_congr fun hn => by rw [hc (by rw [hn]; rfl)]

theorem State.withScratch_respond (x : Scratch) (s : State) (q : Request) :
    (s.withScratch x).respond q = (s.respond q).mapState (State.withScratch x) := by
  have hreplies : (s.withScratch x).replies = s.replies := rfl
  have hpeer : (s.withScratch x).peer = s.peer := rfl
  simp only [State.respond, hreplies, hpeer]
  rcases s.replies with _ | ⟨_ | _, rest⟩
  · rfl
  · rfl
  · rcases s.peer.onRequest q with _ | ⟨p, a⟩ <;> rfl

/-- The scratch values after a delivery of `v`. -/
def Scratch.deliver (d : Dest) (v : List Byte) (x : Scratch) : Scratch :=
  { x with
    rbuf := if d = .rbuf then v else x.rbuf
    cur := if d = .cur then v.headD x.cur else x.cur }

theorem State.withScratch_deliver (x : Scratch) (s : State) (d : Dest) (v : List Byte) :
    (s.withScratch x).deliver d v = (s.deliver d v).withScratch (x.deliver d v) := by
  rw [State.deliver_eq, State.deliver_eq]
  rfl

/-- The scratch values after a failed receive in state `s`. -/
def Scratch.spoil (sl : Slot) (s : State) (x : Scratch) : Scratch :=
  { x with rbuf := if sl.dest = .rbuf then freeBytes s.freeIdx sl.len else x.rbuf }

theorem State.withScratch_spoil (x : Scratch) (s : State) (sl : Slot) :
    (s.withScratch x).spoil sl = (s.spoil sl).withScratch (x.spoil sl s) := by
  rw [State.spoil_eq, State.spoil_eq]
  rfl

/-- Completion presents RBUF for READ alone (R57). -/
theorem State.withScratch_complete {x : Scratch} {s : State} (hr : s.op = .read → x.rbuf = s.rbuf) :
    (s.withScratch x).complete = s.complete.withScratch x := by
  have hrbuf : (if s.op = .read then x.rbuf else []) = if s.op = .read then s.rbuf else [] :=
    if_ctx_congr Iff.rfl hr fun _ => rfl
  have hcompletion : (s.withScratch x).completion = s.completion :=
    congrArg (Completion.mk s.op (finalRes s.op s.res)) hrbuf
  simp only [State.complete, hcompletion]
  rfl

/-! ## Values that are not read -/

/-- The state may hold `x` in its scratch latches: `x` differs from its own values at most in latches that the
operation in progress writes before it reads them. -/
structure Unread (x : Scratch) (s : State) : Prop where
  addr : s.phase = .tAddr ∨ s.phase = .tData →
    x.addr = s.addr ∧ ∃ sl, s.slot = some sl ∧ s.addr = sl.addressByte
  cur  : s.readsCur = true → x.cur = s.cur
  wbuf : s.op = .write → x.wbuf = s.wbuf
  rbuf : s.op = .read → x.rbuf = s.rbuf

/-- The second outcome is the first with scratch values that are not read. -/
def GoesOnAlike (o o' : Host.Outcome State Fault Refusal) : Prop :=
  ∀ t, o = .next t → ∃ y, o' = .next (t.withScratch y) ∧ Unread y t

theorem Unread.goesOnAlike {x : Scratch} {s : State} (h : Unread x s) :
    GoesOnAlike (.next s) (.next (s.withScratch x)) := by
  rintro _ ⟨⟩
  exact ⟨x, rfl, h⟩

theorem GoesOnAlike.of_refused {r : Refusal} {o : Host.Outcome State Fault Refusal} :
    GoesOnAlike (.refused r) o := by
  rintro _ ⟨⟩

theorem GoesOnAlike.of_fault {r : Fault} {o : Host.Outcome State Fault Refusal} :
    GoesOnAlike (.fault r) o := by
  rintro _ ⟨⟩

/-- In T_DESEL and T_NEXT CUR matters only after a read slot of a read-modify-write answered `ok`. -/
theorem Unread.of_released {x : Scratch} {s : State} (hp : s.phase = .tDesel ∨ s.phase = .tNext)
    (hc : isRmwRead s.op s.seq.toNat = true → s.res ≠ .transferError → x.cur = s.cur)
    (hw : s.op = .write → x.wbuf = s.wbuf) (hr : s.op = .read → x.rbuf = s.rbuf) : Unread x s where
  addr ha := by rcases hp with hp | hp <;> simp [hp] at ha
  cur h := by
    rw [State.readsCur_of_released hp] at h
    obtain ⟨hn, hres⟩ := isRmwRead_of_isRmwWrite_next h
    exact hc hn hres
  wbuf := hw
  rbuf := hr

/-- In IDLE neither ADDR nor CUR matters. -/
theorem Unread.of_idle {x : Scratch} {s : State} (hp : s.phase = .idle)
    (hw : s.op = .write → x.wbuf = s.wbuf) (hr : s.op = .read → x.rbuf = s.rbuf) : Unread x s where
  addr ha := by simp [hp] at ha
  cur h := by simp [State.readsCur, hp] at h
  wbuf := hw
  rbuf := hr

section
variable {x : Scratch} {s : State} (h : Unread x s)
include h

theorem Unread.slot (hp : s.phase = .tSel ∨ s.phase = .tAddr ∨ s.phase = .tData) :
    (s.withScratch x).slot = s.slot := by
  refine State.withScratch_slot (fun hc => h.cur ?_) h.wbuf
  rw [State.readsCur_of_open hp, hc]

theorem Unread.inFlight : (s.withScratch x).inFlight = s.inFlight := by
  have hphase : (s.withScratch x).phase = s.phase := rfl
  simp only [State.inFlight, hphase]
  cases hp : s.phase
  case tAddr =>
    have haddr : (s.withScratch x).addr = s.addr := (h.addr (.inl hp)).1
    simp only [haddr]
  case tData => simp only [h.slot (.inr (.inr hp))]
  all_goals rfl

theorem Unread.events : (s.withScratch x).events = s.events := by
  simp only [State.events, State.unanswered, h.inFlight]
  rfl

/-! ## The sub-transfers -/

/-- A request that is answered `fail` leads to T_DESEL with TransferError, and CUR is not read again. -/
theorem Unread.transferError (q : Request) (a : Answer) (p : Peer) (n : Nat) :
    Unread x ((s.answered q a p n).raiseTransferError.setPhase .tDesel) :=
  .of_released (.inl rfl) (fun _ hres => absurd rfl hres) h.wbuf h.rbuf

/-- T_ADDR. -/
theorem Unread.sendAddress (hp : s.phase = .tAddr) (b : Byte) :
    GoesOnAlike (sendAddress b s) (sendAddress b (s.withScratch x)) := by
  simp only [Machine.sendAddress, State.withScratch_respond]
  rcases State.respond_cases (.tx [b]) s with ⟨_, hr⟩ | ⟨_, _, _, hr⟩ | ⟨_ | _, p, n, _, hr, _⟩ <;> rw [hr]
  · exact h.goesOnAlike
  · exact .of_refused
  · refine Unread.goesOnAlike ⟨fun _ => h.addr (.inl hp), fun hc => h.cur ?_, h.wbuf, h.rbuf⟩
    exact (State.readsCur_of_open (.inr (.inl hp))).trans hc
  · exact (h.transferError _ _ p n).goesOnAlike

/-- T_DATA of a write slot, which is no read slot of a read-modify-write. -/
theorem Unread.sendPayload {sl : Slot} (hs : s.slot = some sl) (hk : sl.kind = .w) :
    GoesOnAlike (sendPayload sl s) (sendPayload sl (s.withScratch x)) := by
  simp only [Machine.sendPayload, State.withScratch_respond]
  rcases State.respond_cases (.tx sl.data) s with ⟨_, hr⟩ | ⟨_, _, _, hr⟩ | ⟨_ | _, p, n, _, hr, _⟩ <;>
    rw [hr]
  · exact h.goesOnAlike
  · exact .of_refused
  · refine Unread.goesOnAlike (.of_released (.inl rfl) (fun hread _ => ?_) h.wbuf h.rbuf)
    obtain ⟨r, hs'⟩ := State.slot_of_isRmwRead (s := s) hread
    cases hs.symm.trans hs'
    cases hk
  · exact (h.transferError _ _ p n).goesOnAlike

/-- A delivery leaves CUR alone or, of one byte, with that byte in both. -/
theorem Unread.deliver {sl : Slot} {v : List Byte} (hs : s.slot = some sl) (hv : v.length = sl.len)
    (q : Request) (a : Answer) (p : Peer) (n : Nat) :
    Unread (x.deliver sl.dest v) (((s.answered q a p n).deliver sl.dest v).setPhase .tDesel) := by
  rw [State.deliver_eq]
  refine .of_released (.inl rfl) (fun hread _ => ?_) h.wbuf fun hop => ?_
  · obtain ⟨r, hs'⟩ := State.slot_of_isRmwRead (s := s) hread
    cases hs.symm.trans hs'
    obtain ⟨c, rfl⟩ := List.length_eq_one_iff.mp hv
    rfl
  · exact congrArg (fun r => if sl.dest = .rbuf then v else r) (h.rbuf hop)

theorem Unread.spoil (sl : Slot) (q : Request) (a : Answer) (p : Peer) (n : Nat) :
    Unread (x.spoil sl (s.answered q a p n))
      (((s.answered q a p n).spoil sl).raiseTransferError.setPhase .tDesel) := by
  rw [State.spoil_eq]
  exact .of_released (.inl rfl) (fun _ hres => absurd rfl hres) h.wbuf
    fun hop => congrArg (fun r => if sl.dest = .rbuf then freeBytes n sl.len else r) (h.rbuf hop)

/-- T_DATA of a read slot. -/
theorem Unread.receivePayload {sl : Slot} (hs : s.slot = some sl) :
    GoesOnAlike (receivePayload sl s) (receivePayload sl (s.withScratch x)) := by
  simp only [Machine.receivePayload, State.withScratch_respond]
  rcases State.respond_cases (.rx sl.len) s with ⟨_, hr⟩ | ⟨_, _, _, hr⟩ | ⟨b | _, p, n, _, hr, _⟩ <;>
    rw [hr]
  · exact h.goesOnAlike
  · exact .of_refused
  · simp only [Response.mapState, State.withScratch_deliver]
    exact (h.deliver hs (State.respond_rx_length hr) _ _ p n).goesOnAlike
  · simp only [Response.mapState, State.withScratch_spoil]
    exact (h.spoil sl _ _ p n).goesOnAlike

/-! ## The rows of R96 -/

/-- T_SEL writes ADDR. -/
theorem Unread.stepSel (hp : s.phase = .tSel) :
    GoesOnAlike (stepPhase s) (stepPhase (s.withScratch x)) := by
  rcases hs : s.slot with _ | sl
  · rw [stepPhase_tSel_none hp hs]
    exact .of_fault
  · rw [stepPhase_tSel hp hs,
      stepPhase_tSel (s := s.withScratch x) hp ((h.slot (.inl hp)).trans hs)]
    refine Unread.goesOnAlike (x := { x with addr := sl.addressByte })
      ⟨fun _ => ⟨rfl, sl, hs, rfl⟩, fun hc => h.cur ?_, h.wbuf, h.rbuf⟩
    exact (State.readsCur_of_open (.inl hp)).trans hc

/-- T_ADDR and T_DATA. -/
theorem Unread.stepFrame (hp : s.phase = .tAddr ∨ s.phase = .tData) :
    GoesOnAlike (stepPhase s) (stepPhase (s.withScratch x)) := by
  obtain ⟨hx, sl, hs, ha⟩ := h.addr hp
  have ha' : (s.withScratch x).addr = sl.addressByte := hx.trans ha
  rcases hp with hp | hp
  · rw [stepPhase_tAddr hp ha, stepPhase_tAddr (s := s.withScratch x) hp ha']
    exact h.sendAddress hp _
  · rw [stepPhase_tData hp hs ha,
      stepPhase_tData (s := s.withScratch x) hp ((h.slot (.inr (.inr hp))).trans hs) ha']
    simp only [movePayload]
    cases hk : sl.kind
    · exact h.sendPayload hs hk
    · exact h.receivePayload hs

/-- T_NEXT: CUR matters in the slot it starts as it did before. -/
theorem Unread.advance (hp : s.phase = .tNext) :
    GoesOnAlike (.next s.advance) (.next (s.withScratch x).advance) := by
  rcases Nat.lt_or_ge (s.seq.toNat + seqStep s.op s.seq.toNat s.res) (slotCount s.op) with hn | hn
  · rw [State.advance_of_lt hn, State.advance_of_lt (s := s.withScratch x) hn]
    refine Unread.goesOnAlike (x := x) ⟨fun ha => by simp at ha, fun hc => h.cur ?_, h.wbuf, h.rbuf⟩
    rw [State.readsCur_of_open (.inl rfl)] at hc
    rw [State.readsCur_of_released (.inr hp), ← hc]
    refine congrArg (isRmwWrite s.op) (Nat.mod_eq_of_lt (hn.trans_le ?_)).symm
    exact (slotCount_le _).trans (by decide)
  · rw [State.advance_of_ge hn, State.advance_of_ge (s := s.withScratch x) hn]
    rintro _ ⟨⟩
    exact ⟨x, congrArg Host.Outcome.next (State.withScratch_complete (s := { s with seq := _ }) h.rbuf),
      .of_idle rfl h.wbuf h.rbuf⟩

/-- Every row inside an operation. -/
theorem Unread.stepPhase (hp : s.phase ≠ .idle) :
    GoesOnAlike (stepPhase s) (stepPhase (s.withScratch x)) := by
  cases hq : s.phase
  case idle => exact absurd hq hp
  case tSel => exact h.stepSel hq
  case tAddr => exact h.stepFrame (.inl hq)
  case tData => exact h.stepFrame (.inr hq)
  case tDesel =>
    rw [stepPhase_tDesel hq, stepPhase_tDesel (s := s.withScratch x) hq]
    refine Unread.goesOnAlike ⟨fun ha => by simp at ha, fun hc => h.cur ?_, h.wbuf, h.rbuf⟩
    exact (State.readsCur_of_released (.inl hq)).trans hc
  case tNext =>
    rw [stepPhase_tNext hq, stepPhase_tNext (s := s.withScratch x) hq]
    exact h.advance hq

/-- Hardware reset writes ADDR and CUR and leaves the caller's buffers alone. -/
theorem Unread.hardReset :
    GoesOnAlike (.next s.hardReset) (.next (s.withScratch x).hardReset) := by
  have hreset : (s.withScratch x).hardReset =
      s.hardReset.withScratch ⟨State.reset.addr, State.reset.cur, x.wbuf, x.rbuf⟩ := by
    simp only [State.hardReset, State.repliesAfterReset, h.inFlight, h.events]
    rfl
  rw [hreset]
  exact Unread.goesOnAlike (.of_idle rfl nofun nofun)

end

/-! ## Acceptance -/

/-- A state an acceptance leaves: neither ADDR nor CUR is read before it is written. -/
theorem Unread.of_accepted {x : Scratch} {s : State} (hp : s.phase = .tSel) (hq : s.seq = 0#4)
    (hw : s.op = .write → x.wbuf = s.wbuf) (hr : s.op = .read → x.rbuf = s.rbuf) : Unread x s where
  addr ha := by simp [hp] at ha
  cur h := by
    rw [State.readsCur_of_open (.inl hp), hq] at h
    cases h
  wbuf := hw
  rbuf := hr

/-- Two states at the command port that start a command in states that go on alike. -/
theorem GoesOnAlike.atPort {why : Option Refusal} {started started' s s' : State} (hp : s.phase = .idle)
    (hp' : s'.phase = .idle) {x : Scratch} (hs : started' = started.withScratch x)
    (h : Unread x started) : GoesOnAlike (atPort why started s) (atPort why started' s') := by
  intro t ht
  rcases atPort_cases ht with ⟨hb, _⟩ | ⟨_, hw, rfl⟩
  · exact absurd hp hb
  · exact ⟨x, (atPort_accepts hp' hw).trans (congrArg _ hs), h⟩

theorem sameButScratch.accept {s s' : State} (h : sameButScratch s s') (o : Op) (r : RegIndex) (a : Byte) :
    s'.accept o r a = (s.accept o r a).withScratch s'.scratch := by
  rw [h]
  rfl

/-- Acceptance writes OP, REG, ARG, SEQ and RES (R56), WBUF for WRITE and RBUF for READ. -/
theorem sameButScratch.exec {i : Instr} {s s' : State} (h : sameButScratch s s') (hp : s.phase = .idle)
    (hc : isCommand i = true) : GoesOnAlike (exec i s) (exec i s') := by
  have hp' : s'.phase = .idle := by rw [h]; exact hp
  have hb : s'.bound = s.bound := by rw [h]
  cases i <;> simp only [Machine.exec, execInit, execReset, execRead, execWrite, execSetBits,
    execClearBits, execAntennaOn, execAntennaOff, whyUnbound, whyRead, whyWrite, hb]
  case init r a b p n =>
    exact .atPort hp hp' (x := s'.scratch) (congrArg (State.bind b p n) (h.accept _ _ _))
      (.of_accepted rfl rfl nofun nofun)
  case read r len =>
    refine .atPort hp hp' (x := { s'.scratch with rbuf := freeBytes s.freeIdx len.toNat }) ?_
      (.of_accepted rfl rfl nofun fun _ => rfl)
    rw [h.accept]
    rfl
  case write r len v =>
    refine .atPort hp hp' (x := { s'.scratch with wbuf := v }) ?_
      (.of_accepted rfl rfl (fun _ => rfl) nofun)
    rw [h.accept]
    rfl
  case writeFrame | readFrame | select | deselect => cases hc
  all_goals exact .atPort hp hp' (h.accept _ _ _) (.of_accepted rfl rfl nofun nofun)

theorem State.sameButScratch_withScratch (x : Scratch) (s : State) :
    sameButScratch s (s.withScratch x) := rfl

/-! ## The step and the run -/

/-- In IDLE the next command is accepted alike, inside an operation the row reads the same latches. -/
theorem Unread.step {x : Scratch} {s : State} (h : Unread x s) :
    GoesOnAlike (step s) (step (s.withScratch x)) := by
  have h' : Unread x s.afterRst := ⟨h.addr, h.cur, h.wbuf, h.rbuf⟩
  cases hr : s.rstNow
  · rw [step_row hr, step_row (s := s.withScratch x) hr]
    by_cases hp : s.phase = .idle
    · rcases hc : s.cmds with _ | ⟨o, rest⟩
      · rw [stepPhase_idle_nil (s := s.afterRst) hp hc,
          stepPhase_idle_nil (s := (s.withScratch x).afterRst) hp hc]
        exact h'.goesOnAlike
      · rw [stepPhase_idle_cons (s := s.afterRst) hp hc,
          stepPhase_idle_cons (s := (s.withScratch x).afterRst) hp hc]
        exact (State.sameButScratch_withScratch x { s.afterRst with cmds := rest }).exec hp
          (isCommand_decodeCmd _ _)
    · exact h'.stepPhase hp
  · rw [step_rst hr, step_rst (s := s.withScratch x) hr]
    exact h'.hardReset

theorem Unread.run {x : Scratch} {s : State} (h : Unread x s) (k : Nat) :
    GoesOnAlike (run k s) (run k (s.withScratch x)) := by
  induction k generalizing x s with
  | zero => exact h.goesOnAlike
  | succ k ih =>
    rcases hs : Machine.step s with t | _ | _
    · obtain ⟨y, hy, ht⟩ := h.step t hs
      rw [run_succ k hs, run_succ k hy]
      exact ih ht
    all_goals
      intro u hu
      simp only [Machine.run, hs] at hu
      cases hu

/-- Settles O45: after acceptance what the two states differ in is not read, and so it stays. -/
theorem scratchHasNoInfluence : Obligations.ScratchHasNoInfluence := by
  intro i s s' t u k hs hp hc ht hu
  obtain ⟨x, ht', hx⟩ := hs.exec hp hc t ht
  obtain ⟨y, hu', hy⟩ := hx.run k u hu
  exact ⟨_, _, ht', hu', hy.events, rfl, rfl, rfl, rfl, rfl⟩

end Sys2Proof.Machine
end

section
/-! PROOFS. The state right after hardware reset (R150): what it holds, and what the command port does in it.
The reset level of CS is log entry 8, the name of the refusal log entry 18. -/

namespace Sys2Proof.Machine

/-- R56 (b) and (c) speak of READ and WRITE alone, so INIT has no operand to get wrong. -/
theorem wellFormed_of_isInit {i : Instr} (hi : isInit i = true) : wellFormed i = true := by
  cases i
  case init => rfl
  all_goals cases hi

/-- Settles O36: INIT starts from any idle state, and BOUND = 0 refuses every other command. -/
theorem resetState : Obligations.ResetState :=
  ⟨rfl, rfl, rfl, rfl, rfl, fun _ hc hi => exec_starts hc rfl (wellFormed_of_isInit hi) (.inl hi),
    fun _ hc hi => exec_unbound hc rfl hi rfl⟩

end Sys2Proof.Machine
end

section
/-! PROOFS. The worked command words and address bytes (spec/30_encoding.md section 7,
spec/95_test_vectors.md section 3.1). Each is the encoding of the instruction it stands for, so that it
decodes to it. -/

namespace Sys2Proof

theorem decodeTableWord_of_encode {n w : Nat} {i : Instr} (h : tableEncoded n w = .ok (encode i)) :
    decodeTableWord n w = some i := by
  simp only [decodeTableWord, h, decode_encode]

theorem decodeCmd_of_encode {w : CmdWord} {side : Side} {i : Instr} (h : encode i = .cmd ⟨w, side⟩) :
    decodeCmd w side = i := by
  have hd : decode (.cmd ⟨w, side⟩) = .ok i := h ▸ decode_encode i
  exact Except.ok.inj hd

/-- Settles O3: a closed word is compared with the encoding of its instruction, the decoder itself is not
run. -/
theorem workedWordsDecode : Obligations.WorkedWordsDecode :=
  ⟨decodeTableWord_of_encode rfl, decodeTableWord_of_encode rfl, decodeCmd_of_encode rfl,
    decodeTableWord_of_encode rfl, decodeTableWord_of_encode rfl, decodeTableWord_of_encode rfl,
    decodeTableWord_of_encode rfl, decodeTableWord_of_encode rfl, decodeCmd_of_encode rfl,
    decodeTableWord_of_encode rfl, decodeTableWord_of_encode rfl, decodeTableWord_of_encode rfl,
    decodeTableWord_of_encode rfl⟩

end Sys2Proof
end
